-- ==== Sys2Proof/Word.lean ====
section
/-! DEFINITION. The machine's value types (spec 00_scope.md R5, R7): 32-bit words and addresses, the 16-bit and 8-bit
values of the narrower bus accesses. Arithmetic on them is `BitVec` arithmetic, modulo 2^32. -/

namespace Sys2Proof

/-- A register, address or data value: 32 bits (R5, R7). -/
abbrev Word := BitVec 32

/-- The value of a halfword bus access (R50). -/
abbrev Half := BitVec 16

/-- The value of a byte bus access (R50). -/
abbrev Byte := BitVec 8

end Sys2Proof
end

