-- ==== Sys2Proof/Config.lean ====
section
/-! DEFINITION. What the spec leaves to the model's parameters (00_scope.md R6): the free values. Each is an `opaque`
constant with no body, so nothing can be proved of its value: a claim about it holds for every choice. Where a run uses
them, and where it uses plain data instead, is data in `State.launch`, with StopAddress and the two switches; the draw of
R340 is `ResetDraw` (Machine/Reset.lean). -/

namespace Sys2Proof

/-- The width of one bus access (R50): byte, halfword or word. -/
inductive Width where
  | byte
  | half
  | word
deriving DecidableEq, Repr

/-- What a bus access may do to the bus's own state (R50, R58): the bytes of memory it changes, in order, any addresses and
any values, and the bus's other state after it. -/
structure BusEffect where
  changes : List (Word × Byte)
  dev : Nat
deriving DecidableEq, Repr, Inhabited

namespace Config

/-- `Bus` (R6, R50, D4), a read the launch does not give to the flat memory: the 32-bit value it returns, of which the
core takes the low bits of the width (R9), and its side effects (R58). It may depend on everything the bus holds, the
address, the width and the step. Assumption log 3 and 4. -/
opaque busRead (step : Nat) (width : Width) (addr : Word) (mem : List Host.Cell) (dev : Nat) : Word × BusEffect

/-- `Bus` (R6, R50, D4), a write the launch does not give to the flat memory: its effects. Assumption log 3 and 4. -/
opaque busWrite (step : Nat) (width : Width) (addr value : Word) (mem : List Host.Cell) (dev : Nat) : BusEffect

/-- `InterruptSource` (R6, R312, D21) where the launch leaves it free: the IRQ and the FIQ line of source `k` at boundary
`n`. Assumption log 5. -/
opaque interruptSource (k n : Nat) : Bool × Bool

end Config

end Sys2Proof
end

