-- ==== Sys2Proof/Syntax.lean ====
section
/-! DEFINITION. The instructions of spec/opcode_table.json as syntax: one constructor of `Instr` per row, in the table's
order, each with the fields of its row (30_encoding.md R74 to R84). Fields a row fixes are not fields of the constructor;
fields an instruction ignores (R86) are kept, so that no bit of a word is lost. -/

namespace Sys2Proof

/-- The number of a general register, a 4-bit field of a word (R74 to R83). -/
abbrev RegIx := BitVec 4

/-- The condition field, R101. -/
inductive Cond where
  | eq | ne | cs | cc | mi | pl | vs | vc | hi | ls | ge | lt | gt | le | al | nv
deriving DecidableEq, Repr

/-- The `type` field of a shifted register operand, R76. -/
inductive ShiftType where
  | lsl | lsr | asr | ror
deriving DecidableEq, Repr

/-- The sixteen data-processing opcodes, R165. -/
inductive AluOp where
  | and | eor | sub | rsb | add | adc | sbc | rsc | tst | teq | cmp | cmn | orr | mov | bic | mvn
deriving DecidableEq, Repr

/-- The sixteen instruction classes of R73: the nine with handlers, then the seven without. -/
inductive InstrClass where
  | bx | bBl | swi | msrReg | dp | ldrStr | ldrStrHsImm | ldrStrHsReg | ldmStm
  | mulMla | mullMlal | swp | mrs | msrFlags | coproc | undefined
deriving DecidableEq, Repr

/-- The fields of the branch-and-exchange format, R78. -/
structure BxFields where
  cond : Cond
  rn : RegIx
deriving DecidableEq, Repr

/-- The fields of the branch format, R77. -/
structure BranchFields where
  cond : Cond
  imm24 : BitVec 24
deriving DecidableEq, Repr

/-- The fields of the software-interrupt format, R79. -/
structure SwiFields where
  cond : Cond
  comment24 : BitVec 24
deriving DecidableEq, Repr

/-- The fields of CDP, R84. -/
structure CdpFields where
  cond : Cond
  op1 : BitVec 4
  crn : BitVec 4
  crd : BitVec 4
  cp : BitVec 4
  op2 : BitVec 3
  crm : BitVec 4
deriving DecidableEq, Repr

/-- The fields of MRC and MCR, R84. -/
structure CopRegFields where
  cond : Cond
  op1 : BitVec 3
  crn : BitVec 4
  rd : RegIx
  cp : BitVec 4
  op2 : BitVec 3
  crm : BitVec 4
deriving DecidableEq, Repr

/-- The fields of LDC and STC, R84. -/
structure CopDataFields where
  cond : Cond
  p : Bool
  u : Bool
  n : Bool
  w : Bool
  rn : RegIx
  crd : BitVec 4
  cp : BitVec 4
  offset8 : BitVec 8
deriving DecidableEq, Repr

/-- The fields of the block-transfer format, R83; P, U, S and L are fixed by the row. -/
structure BlockFields where
  cond : Cond
  w : Bool
  rn : RegIx
  list : BitVec 16
deriving DecidableEq, Repr

/-- The fields of the architecturally undefined space `cond:011:x:1:x` (R296, line 7 of R72): bits 24:5 and 3:0. -/
structure UndefSpaceFields where
  cond : Cond
  hi : BitVec 20
  lo : BitVec 4
deriving DecidableEq, Repr

/-- The fields of a pre-indexed single transfer with an immediate offset, R81; P, B and L are fixed by the row. -/
structure ImmPreFields where
  cond : Cond
  u : Bool
  w : Bool
  rn : RegIx
  rd : RegIx
  imm12 : BitVec 12
deriving DecidableEq, Repr

/-- The fields of a post-indexed single transfer with an immediate offset, R81; P, B, W and L are fixed by the row. -/
structure ImmPostFields where
  cond : Cond
  u : Bool
  rn : RegIx
  rd : RegIx
  imm12 : BitVec 12
deriving DecidableEq, Repr

/-- The fields of a pre-indexed single transfer with a shifted register offset, R81. -/
structure RegPreFields where
  cond : Cond
  u : Bool
  w : Bool
  rn : RegIx
  rd : RegIx
  shiftImm : BitVec 5
  type : ShiftType
  rm : RegIx
deriving DecidableEq, Repr

/-- The fields of a post-indexed single transfer with a shifted register offset, R81. -/
structure RegPostFields where
  cond : Cond
  u : Bool
  rn : RegIx
  rd : RegIx
  shiftImm : BitVec 5
  type : ShiftType
  rm : RegIx
deriving DecidableEq, Repr

/-- The fields of MUL and MLA, R84. -/
structure MulFields where
  cond : Cond
  s : Bool
  rd : RegIx
  rn : RegIx
  rs : RegIx
  rm : RegIx
deriving DecidableEq, Repr

/-- The fields of the long multiplies, R84. -/
structure MullFields where
  cond : Cond
  s : Bool
  rdHi : RegIx
  rdLo : RegIx
  rs : RegIx
  rm : RegIx
deriving DecidableEq, Repr

/-- The fields of SWP and SWPB, R84. -/
structure SwpFields where
  cond : Cond
  rn : RegIx
  rd : RegIx
  rm : RegIx
deriving DecidableEq, Repr

/-- The fields of a halfword or signed transfer with an immediate offset, R82; SH and L are fixed by the row. -/
structure HsImmFields where
  cond : Cond
  p : Bool
  u : Bool
  w : Bool
  rn : RegIx
  rd : RegIx
  imm4H : BitVec 4
  imm4L : BitVec 4
deriving DecidableEq, Repr

/-- The fields of a halfword or signed transfer with a register offset, R82; bits 11:8 are ignored (R86). -/
structure HsRegFields where
  cond : Cond
  p : Bool
  u : Bool
  w : Bool
  rn : RegIx
  rd : RegIx
  ignored : BitVec 4
  rm : RegIx
deriving DecidableEq, Repr

/-- The fields of the multiply-space residue (R296, line 9f of R72): bits 24:8 and 3:0 of `cond:000:…:1001:…`. -/
structure UndefMulFields where
  cond : Cond
  hi : BitVec 17
  lo : BitVec 4
deriving DecidableEq, Repr

/-- The fields of MRS, R84. -/
structure MrsFields where
  cond : Cond
  p : Bool
  rd : RegIx
deriving DecidableEq, Repr

/-- The fields of MSR, register form, R80; P is fixed by the row. -/
structure MsrRegFields where
  cond : Cond
  rm : RegIx
deriving DecidableEq, Repr

/-- The fields of MSR, flag field only, R84. -/
structure MsrFlagsFields where
  cond : Cond
  i : Bool
  p : Bool
  source12 : BitVec 12
deriving DecidableEq, Repr

/-- The fields of the TST, TEQ, CMP and CMN space with S = 0 (R296, line 13 of R72): bits 25, 22:21 and 19:0. -/
structure UndefPsrFields where
  cond : Cond
  i : Bool
  op : BitVec 2
  rest : BitVec 20
deriving DecidableEq, Repr

/-- The fields of data processing, immediate operand 2, R74 and R75. -/
structure DpImmFields where
  cond : Cond
  s : Bool
  rn : RegIx
  rd : RegIx
  rot : BitVec 4
  imm8 : BitVec 8
deriving DecidableEq, Repr

/-- The fields of data processing, register operand 2 with an immediate shift, R74 and R76. -/
structure DpShiftFields where
  cond : Cond
  s : Bool
  rn : RegIx
  rd : RegIx
  shiftImm : BitVec 5
  type : ShiftType
  rm : RegIx
deriving DecidableEq, Repr

/-- The fields of data processing, register operand 2 with a register shift, R74 and R76. -/
structure DpRegFields where
  cond : Cond
  s : Bool
  rn : RegIx
  rd : RegIx
  rs : RegIx
  type : ShiftType
  rm : RegIx
deriving DecidableEq, Repr

/-- The fields of a comparison (S = 1 always, R72), immediate operand 2. -/
structure CmpImmFields where
  cond : Cond
  rn : RegIx
  rd : RegIx
  rot : BitVec 4
  imm8 : BitVec 8
deriving DecidableEq, Repr

/-- The fields of a comparison (S = 1 always, R72), register operand 2 with an immediate shift. -/
structure CmpShiftFields where
  cond : Cond
  rn : RegIx
  rd : RegIx
  shiftImm : BitVec 5
  type : ShiftType
  rm : RegIx
deriving DecidableEq, Repr

/-- The fields of a comparison (S = 1 always, R72), register operand 2 with a register shift. -/
structure CmpRegFields where
  cond : Cond
  rn : RegIx
  rd : RegIx
  rs : RegIx
  type : ShiftType
  rm : RegIx
deriving DecidableEq, Repr

/-- One constructor per row of spec/opcode_table.json, in the table's order. -/
inductive Instr where
  /-- BX (R123). -/
  | bx (f : BxFields)
  /-- B (R120). -/
  | b (f : BranchFields)
  /-- BL (R121). -/
  | bl (f : BranchFields)
  /-- SWI (R140). -/
  | swi (f : SwiFields)
  /-- CDP (R295). -/
  | cdp (f : CdpFields)
  /-- MRC (R295). -/
  | mrc (f : CopRegFields)
  /-- MCR (R295). -/
  | mcr (f : CopRegFields)
  /-- LDC (R295). -/
  | ldc (f : CopDataFields)
  /-- STC (R295). -/
  | stc (f : CopDataFields)
  /-- LDMIA (R273). -/
  | ldmia (f : BlockFields)
  /-- LDMIB (R274). -/
  | ldmib (f : BlockFields)
  /-- LDMDA (R275). -/
  | ldmda (f : BlockFields)
  /-- LDMDB (R276). -/
  | ldmdb (f : BlockFields)
  /-- STMIA (R277). -/
  | stmia (f : BlockFields)
  /-- STMIB (R278). -/
  | stmib (f : BlockFields)
  /-- STMDA (R279). -/
  | stmda (f : BlockFields)
  /-- STMDB (R280). -/
  | stmdb (f : BlockFields)
  /-- LDMIA^ (R282, S = 1). -/
  | ldmiaUser (f : BlockFields)
  /-- LDMIB^ (R282, S = 1). -/
  | ldmibUser (f : BlockFields)
  /-- LDMDA^ (R282, S = 1). -/
  | ldmdaUser (f : BlockFields)
  /-- LDMDB^ (R282, S = 1). -/
  | ldmdbUser (f : BlockFields)
  /-- STMIA^ (R282, S = 1). -/
  | stmiaUser (f : BlockFields)
  /-- STMIB^ (R282, S = 1). -/
  | stmibUser (f : BlockFields)
  /-- STMDA^ (R282, S = 1). -/
  | stmdaUser (f : BlockFields)
  /-- STMDB^ (R282, S = 1). -/
  | stmdbUser (f : BlockFields)
  /-- UNDEFINED (R296, line 7 of R72). -/
  | undefSpace (f : UndefSpaceFields)
  /-- LDR (R232, pre-indexed, immediate offset). -/
  | ldrImmPre (f : ImmPreFields)
  /-- LDR (R232, post-indexed, immediate offset). -/
  | ldrImmPost (f : ImmPostFields)
  /-- LDRT (R234, post-indexed with W = 1, immediate offset). -/
  | ldrtImm (f : ImmPostFields)
  /-- STR (R233, pre-indexed, immediate offset). -/
  | strImmPre (f : ImmPreFields)
  /-- STR (R233, post-indexed, immediate offset). -/
  | strImmPost (f : ImmPostFields)
  /-- STRT (R234, post-indexed with W = 1, immediate offset). -/
  | strtImm (f : ImmPostFields)
  /-- LDRB (R235, pre-indexed, immediate offset). -/
  | ldrbImmPre (f : ImmPreFields)
  /-- LDRB (R235, post-indexed, immediate offset). -/
  | ldrbImmPost (f : ImmPostFields)
  /-- LDRBT (R234, post-indexed with W = 1, immediate offset). -/
  | ldrbtImm (f : ImmPostFields)
  /-- STRB (R236, pre-indexed, immediate offset). -/
  | strbImmPre (f : ImmPreFields)
  /-- STRB (R236, post-indexed, immediate offset). -/
  | strbImmPost (f : ImmPostFields)
  /-- STRBT (R234, post-indexed with W = 1, immediate offset). -/
  | strbtImm (f : ImmPostFields)
  /-- LDR (R232, pre-indexed, register offset). -/
  | ldrRegPre (f : RegPreFields)
  /-- LDR (R232, post-indexed, register offset). -/
  | ldrRegPost (f : RegPostFields)
  /-- LDRT (R234, post-indexed with W = 1, register offset). -/
  | ldrtReg (f : RegPostFields)
  /-- STR (R233, pre-indexed, register offset). -/
  | strRegPre (f : RegPreFields)
  /-- STR (R233, post-indexed, register offset). -/
  | strRegPost (f : RegPostFields)
  /-- STRT (R234, post-indexed with W = 1, register offset). -/
  | strtReg (f : RegPostFields)
  /-- LDRB (R235, pre-indexed, register offset). -/
  | ldrbRegPre (f : RegPreFields)
  /-- LDRB (R235, post-indexed, register offset). -/
  | ldrbRegPost (f : RegPostFields)
  /-- LDRBT (R234, post-indexed with W = 1, register offset). -/
  | ldrbtReg (f : RegPostFields)
  /-- STRB (R236, pre-indexed, register offset). -/
  | strbRegPre (f : RegPreFields)
  /-- STRB (R236, post-indexed, register offset). -/
  | strbRegPost (f : RegPostFields)
  /-- STRBT (R234, post-indexed with W = 1, register offset). -/
  | strbtReg (f : RegPostFields)
  /-- MUL (R291). -/
  | mul (f : MulFields)
  /-- MLA (R291). -/
  | mla (f : MulFields)
  /-- UMULL (R292). -/
  | umull (f : MullFields)
  /-- UMLAL (R292). -/
  | umlal (f : MullFields)
  /-- SMULL (R292). -/
  | smull (f : MullFields)
  /-- SMLAL (R292). -/
  | smlal (f : MullFields)
  /-- SWP (R292). -/
  | swp (f : SwpFields)
  /-- SWPB (R292). -/
  | swpb (f : SwpFields)
  /-- LDRH (R237, immediate offset). -/
  | ldrhImm (f : HsImmFields)
  /-- STRH (R238, immediate offset). -/
  | strhImm (f : HsImmFields)
  /-- LDRSB (R239, immediate offset). -/
  | ldrsbImm (f : HsImmFields)
  /-- LDRSH (R240, immediate offset). -/
  | ldrshImm (f : HsImmFields)
  /-- STRSB (R223 and R241: a store with SH = 10, immediate offset). -/
  | strsbImm (f : HsImmFields)
  /-- STRSH (R223 and R241: a store with SH = 11, immediate offset). -/
  | strshImm (f : HsImmFields)
  /-- LDRH (R237, register offset). -/
  | ldrhReg (f : HsRegFields)
  /-- STRH (R238, register offset). -/
  | strhReg (f : HsRegFields)
  /-- LDRSB (R239, register offset). -/
  | ldrsbReg (f : HsRegFields)
  /-- LDRSH (R240, register offset). -/
  | ldrshReg (f : HsRegFields)
  /-- STRSB (R223 and R241: a store with SH = 10, register offset). -/
  | strsbReg (f : HsRegFields)
  /-- STRSH (R223 and R241: a store with SH = 11, register offset). -/
  | strshReg (f : HsRegFields)
  /-- UNDEFINED (R296, line 9f of R72). -/
  | undefMul (f : UndefMulFields)
  /-- MRS (R294). -/
  | mrs (f : MrsFields)
  /-- MSR (R145). -/
  | msrCpsr (f : MsrRegFields)
  /-- MSR (R144). -/
  | msrSpsr (f : MsrRegFields)
  /-- MSR (R293). -/
  | msrFlags (f : MsrFlagsFields)
  /-- UNDEFINED (R296, line 13 of R72). -/
  | undefPsr (f : UndefPsrFields)
  /-- AND (R176, immediate operand). -/
  | andImm (f : DpImmFields)
  /-- AND (R176, register operand, immediate shift). -/
  | andShift (f : DpShiftFields)
  /-- AND (R176, register operand, register shift). -/
  | andReg (f : DpRegFields)
  /-- EOR (R177, immediate operand). -/
  | eorImm (f : DpImmFields)
  /-- EOR (R177, register operand, immediate shift). -/
  | eorShift (f : DpShiftFields)
  /-- EOR (R177, register operand, register shift). -/
  | eorReg (f : DpRegFields)
  /-- SUB (R178, immediate operand). -/
  | subImm (f : DpImmFields)
  /-- SUB (R178, register operand, immediate shift). -/
  | subShift (f : DpShiftFields)
  /-- SUB (R178, register operand, register shift). -/
  | subReg (f : DpRegFields)
  /-- RSB (R179, immediate operand). -/
  | rsbImm (f : DpImmFields)
  /-- RSB (R179, register operand, immediate shift). -/
  | rsbShift (f : DpShiftFields)
  /-- RSB (R179, register operand, register shift). -/
  | rsbReg (f : DpRegFields)
  /-- ADD (R180, immediate operand). -/
  | addImm (f : DpImmFields)
  /-- ADD (R180, register operand, immediate shift). -/
  | addShift (f : DpShiftFields)
  /-- ADD (R180, register operand, register shift). -/
  | addReg (f : DpRegFields)
  /-- ADC (R181, immediate operand). -/
  | adcImm (f : DpImmFields)
  /-- ADC (R181, register operand, immediate shift). -/
  | adcShift (f : DpShiftFields)
  /-- ADC (R181, register operand, register shift). -/
  | adcReg (f : DpRegFields)
  /-- SBC (R182, immediate operand). -/
  | sbcImm (f : DpImmFields)
  /-- SBC (R182, register operand, immediate shift). -/
  | sbcShift (f : DpShiftFields)
  /-- SBC (R182, register operand, register shift). -/
  | sbcReg (f : DpRegFields)
  /-- RSC (R183, immediate operand). -/
  | rscImm (f : DpImmFields)
  /-- RSC (R183, register operand, immediate shift). -/
  | rscShift (f : DpShiftFields)
  /-- RSC (R183, register operand, register shift). -/
  | rscReg (f : DpRegFields)
  /-- TST (R184, immediate operand). -/
  | tstImm (f : CmpImmFields)
  /-- TST (R184, register operand, immediate shift). -/
  | tstShift (f : CmpShiftFields)
  /-- TST (R184, register operand, register shift). -/
  | tstReg (f : CmpRegFields)
  /-- TEQ (R185, immediate operand). -/
  | teqImm (f : CmpImmFields)
  /-- TEQ (R185, register operand, immediate shift). -/
  | teqShift (f : CmpShiftFields)
  /-- TEQ (R185, register operand, register shift). -/
  | teqReg (f : CmpRegFields)
  /-- CMP (R186, immediate operand). -/
  | cmpImm (f : CmpImmFields)
  /-- CMP (R186, register operand, immediate shift). -/
  | cmpShift (f : CmpShiftFields)
  /-- CMP (R186, register operand, register shift). -/
  | cmpReg (f : CmpRegFields)
  /-- CMN (R187, immediate operand). -/
  | cmnImm (f : CmpImmFields)
  /-- CMN (R187, register operand, immediate shift). -/
  | cmnShift (f : CmpShiftFields)
  /-- CMN (R187, register operand, register shift). -/
  | cmnReg (f : CmpRegFields)
  /-- ORR (R188, immediate operand). -/
  | orrImm (f : DpImmFields)
  /-- ORR (R188, register operand, immediate shift). -/
  | orrShift (f : DpShiftFields)
  /-- ORR (R188, register operand, register shift). -/
  | orrReg (f : DpRegFields)
  /-- MOV (R189, immediate operand). -/
  | movImm (f : DpImmFields)
  /-- MOV (R189, register operand, immediate shift). -/
  | movShift (f : DpShiftFields)
  /-- MOV (R189, register operand, register shift). -/
  | movReg (f : DpRegFields)
  /-- BIC (R190, immediate operand). -/
  | bicImm (f : DpImmFields)
  /-- BIC (R190, register operand, immediate shift). -/
  | bicShift (f : DpShiftFields)
  /-- BIC (R190, register operand, register shift). -/
  | bicReg (f : DpRegFields)
  /-- MVN (R191, immediate operand). -/
  | mvnImm (f : DpImmFields)
  /-- MVN (R191, register operand, immediate shift). -/
  | mvnShift (f : DpShiftFields)
  /-- MVN (R191, register operand, register shift). -/
  | mvnReg (f : DpRegFields)
deriving DecidableEq, Repr

end Sys2Proof
end

