-- ==== Sys2Proof/Machine/State.lean ====
section
/-! DEFINITION. The state of the machine (10_state.md R20 to R41), plain data, and its value after reset (R40, R340).
Memory is the bus's (R50), and so is `dev`; the last three fields are the model's own: see INVENTORY.md, State. -/

namespace Sys2Proof.Machine

/-- The seven modes (R13, R28). -/
inductive Mode where
  | usr | fiq | irq | svc | abt | und | sys
deriving DecidableEq, Repr

/-- The CPSR (R27), field by field. The mode is one of the seven of R28: the CPSR never holds an invalid one (R28). -/
structure Psr where
  n : Bool
  z : Bool
  c : Bool
  v : Bool
  /-- Bits 27:8, kept as written (R32). -/
  reserved : BitVec 20
  i : Bool
  f : Bool
  t : Bool
  mode : Mode
deriving DecidableEq, Repr

/-- The banks of R13 and R14 (R21): usr and sys share the first (R22). -/
inductive Bank where
  | usr | fiq | irq | svc | abt | und
deriving DecidableEq, Repr

/-- The names of the physical general registers (R21): the 30 of R21's list, 8 + 5 + 5 + 12. R5 and R21 count 31 and take
R15 apart; the model follows the list, and stores R15 in `State.pcf` (log entry 17, DESIGN CHOICE). -/
inductive PhysReg where
  /-- `R0` to `R7`. -/
  | low (k : Fin 8)
  /-- `R8_usr` to `R12_usr`, `k` counting from R8. -/
  | usrHigh (k : Fin 5)
  /-- `R8_fiq` to `R12_fiq`, `k` counting from R8. -/
  | fiqHigh (k : Fin 5)
  /-- `R13` of a bank. -/
  | sp (b : Bank)
  /-- `R14` of a bank. -/
  | lr (b : Bank)
deriving DecidableEq, Repr

/-- One register of each of the six banks of R13 or of R14 (R21). -/
structure Banked where
  usr : Word
  fiq : Word
  irq : Word
  svc : Word
  abt : Word
  und : Word
deriving DecidableEq, Repr

/-- The physical general registers (R21): the 30 of R21's list; R5 and R21 count 31 (log entry 17, DESIGN CHOICE). -/
structure Regs where
  low : Vector Word 8
  usrHigh : Vector Word 5
  fiqHigh : Vector Word 5
  sp : Banked
  lr : Banked
deriving DecidableEq, Repr

/-- The five SPSRs (R29), whole images: an SPSR may hold any 32 bits (R28). -/
structure Spsrs where
  fiq : Word
  irq : Word
  svc : Word
  abt : Word
  und : Word
deriving DecidableEq, Repr

/-- The bytes of the bus's memory that differ from the background (Machine/Memory.lean): address and byte, the addresses
strictly rising. -/
abbrev Memory := List Host.Cell

/-- The kinds of structured error (R318). -/
inductive ErrorKind where
  /-- Code 1: a class with no handler (R290). -/
  | unimplementedClass
  /-- Code 2: writeback with Rn = Rd in a single transfer (R222). -/
  | illegalInstruction
  /-- Code 3: R144, R145, R173, R223 and R262. -/
  | fatalMisuse
deriving DecidableEq, Repr

/-- An error record (R37, R318): the kind, the instruction's address, the raw word, the decoded class. -/
structure ErrorRecord where
  kind : ErrorKind
  ia : Word
  raw : Word
  cls : InstrClass
deriving DecidableEq, Repr

/-- The direction of a bus access (R50). -/
inductive BusOp where
  | read
  | write
deriving DecidableEq, Repr

/-- One call of the bus (R50, R57): the value is the one read, or the one written, zero-extended to 32 bits (R9). -/
structure BusAccess where
  op : BusOp
  width : Width
  addr : Word
  value : Word
deriving DecidableEq, Repr

/-- The two interrupt request lines at one instruction boundary (R312). -/
structure Lines where
  irq : Bool
  fiq : Bool
deriving DecidableEq, Repr

/-- Addresses the launch takes from the flat memory and gives to the bus's free behaviour, `Config.busRead` and
`Config.busWrite`: `size` bytes from `base` on, wrapping at 2^32. -/
structure Window where
  base : Word
  size : Nat
deriving DecidableEq, Repr

/-- `Bus.misaligned` (R54, D4), for a halfword or word access at a misaligned address outside every window. -/
inductive Misaligned where
  /-- The bus's free behaviour (log entry 3). -/
  | free
  /-- No step: the reference bus (R67). -/
  | stuck
deriving DecidableEq, Repr

/-- A function from boundaries to lines, as data (R312, D21). -/
inductive Source where
  /-- The lines of the list, over and over; none requested for the empty list. -/
  | cycle (lines : List Lines)
  /-- Any function at all: number `k` of `Config.interruptSource`. -/
  | free (k : Nat)
deriving DecidableEq, Repr

/-- The launch parameters of R6 as data, fixed for a run: no rule writes them. `devices` and `misaligned` say which `Bus`
it is: flat memory (R67) outside the windows, the free behaviour inside (log entry 4); one window of 2^32 bytes is a bus
of which nothing is known. -/
structure Launch where
  /-- `DP_PC_S_RESTORES_SPSR` (R173, D10). -/
  dpPcSRestoresSpsr : Bool
  /-- `MSR_USER_RESTRICT` (R142, D11). -/
  msrUserRestrict : Bool
  /-- `StopAddress` (R116, D39); `none` is an address no run reaches. -/
  stopAddress : Option Word
  /-- `InterruptSource` (R312, D21): the lines at the boundaries listed, the first entry for a boundary counting. -/
  requests : List (Nat × Lines)
  /-- `InterruptSource` at every boundary not listed. -/
  otherwise : Source
  /-- `Bus`: the addresses whose accesses are free. -/
  devices : List Window
  /-- `Bus.misaligned`. -/
  misaligned : Misaligned
  /-- `Bus`: its memory at launch (R342), from which `Reset` starts (R340). A launch from another state (R344) has its bus
  in `State.mem` and `State.dev`. -/
  mem : Memory
  /-- `Bus`: its other state at launch, as for `mem`. -/
  dev : Nat
deriving DecidableEq, Repr

/-- The machine's state (R20), the bus's memory (R50) and the model's own bookkeeping. -/
structure State where
  /-- The general registers (R21). -/
  regs : Regs
  /-- The storage of R15 (R24). -/
  pcf : Word
  /-- The address of the instruction in the execute stage (R25). -/
  ia : Word
  /-- The CPSR (R27). -/
  cpsr : Psr
  /-- The SPSRs (R29). -/
  spsr : Spsrs
  /-- The prefetched word about to execute (R36). -/
  qcur : Word
  /-- The prefetched word after it (R36). -/
  qnext : Word
  /-- The internal-cycle counter (R35). -/
  icycles : Nat
  /-- The fault record (R37). -/
  err : Option ErrorRecord
  /-- The refusal mark (R38). -/
  refused : Bool
  /-- The bus's memory (R50, R51). -/
  mem : Memory
  /-- The bus's own state apart from memory (R50, R58): only the free accesses read and change it. -/
  dev : Nat
  /-- The model's own: the completed steps since launch, the argument of `InterruptSource` (R312). -/
  steps : Nat
  /-- The model's own: every bus access so far, the latest first (R56 to R58 count and order them). -/
  busLog : List BusAccess
  /-- The model's own: the launch parameters of R6 (R39 makes them arguments of the step). -/
  launch : Launch
deriving DecidableEq, Repr

/-- Why a step has no next state although the model gives the instruction its meaning. -/
inductive Fault where
  /-- A structured error (R318) raised by a handler or by a class without one, and the faulted state it leaves: the
  state before `Execute` with `ERR` set (R37, R108, R319). Raised by the meanings, through `runHandler`. Safe: the spec
  gives the state no further step. -/
  | raised (e : ErrorRecord) (faulted : State)
  /-- A step begun with `ERR` set (R37, R110). Raised by `step`. Safe: the spec says there is no such step. -/
  | errorSet (e : ErrorRecord)
  /-- A step begun at `StopAddress` (R110, R116): the run has ended and the state is final. Raised by `step`. Safe: the
  spec says there is no such step. -/
  | runEnded
  /-- A misaligned halfword or word access under `Misaligned.stuck`: the reference bus has no step (R67, U10). Raised by
  the loads and stores, through `runHandler`. Safe: the spec says there is no such step. -/
  | busStuck
  /-- A step begun in a state of no run: `PCF ≠ IA + 8`, `IA` not word-aligned, or a launch whose prefetched words are not
  the bus's (R344, U21; log entry 18). Raised by `step`. Safe: the spec says there is no such step. -/
  | brokenLaunch
deriving DecidableEq, Repr

/-- Why the model has no meaning for a state or an instruction. -/
inductive Refusal where
  /-- An instruction whose meaning is not written yet, by its mnemonic. Raised by `exec` only. Safe. -/
  | notModelled (mnemonic : String)
  /-- A step begun with `CPSR.T = 1` (R113, R297), and the state it leaves, with `REFUSED` set. Raised by `step`. Safe:
  THUMB execution is out of scope (R4). -/
  | thumbState (refused : State)
  /-- A step begun with `REFUSED` set (R38, R110). Raised by `step`. Safe: the spec says there is no such step. -/
  | refusedSet
deriving DecidableEq, Repr

/-- The launch parameters' defaults (R6, R312): both switches false, no interrupt, no stop address; no window,
misaligned accesses free, and nothing listed in memory (log entries 2, 3 and 4). -/
def Launch.default : Launch :=
  { dpPcSRestoresSpsr := false
    msrUserRestrict := false
    stopAddress := none
    requests := []
    otherwise := .cycle []
    devices := []
    misaligned := .free
    mem := []
    dev := 0 }

/-- The launch of the test vectors: `Bus` is `FlatBus` (R67), which is stuck on a misaligned access. -/
def Launch.flatBus : Launch := { Launch.default with misaligned := .stuck }

/-- All six registers of a bank set to one value. -/
def Banked.all (w : Word) : Banked :=
  { usr := w, fiq := w, irq := w, svc := w, abt := w, und := w }

/-- The state after `Reset(draw)` (R340) with nothing in memory and the draw all zeros: svc, I = F = 1, T = 0, IA = 0,
PCF = 8, and the two words of the refill, read from addresses 0 and 4. The drawn values are log entry 1, memory log
entry 2 and `dev` log entry 4, all DESIGN CHOICE; `Laws.reset_is_the_reset_procedure` holds this literal against the procedure. -/
def State.reset : State :=
  { regs :=
      { low := #v[0, 0, 0, 0, 0, 0, 0, 0]
        usrHigh := #v[0, 0, 0, 0, 0]
        fiqHigh := #v[0, 0, 0, 0, 0]
        sp := Banked.all 0
        lr := Banked.all 0 }
    pcf := 8
    ia := 0
    cpsr :=
      { n := false, z := false, c := false, v := false, reserved := 0, i := true, f := true, t := false, mode := .svc }
    spsr := { fiq := 0, irq := 0, svc := 0, abt := 0, und := 0 }
    qcur := 0
    qnext := 0
    icycles := 0
    err := none
    refused := false
    mem := []
    dev := 0
    steps := 0
    busLog :=
      [{ op := .read, width := .word, addr := 4, value := 0 }, { op := .read, width := .word, addr := 0, value := 0 }]
    launch := Launch.default }

end Sys2Proof.Machine
end

