-- ==== Sys2Proof/Machine/Flags.lean ====
section
/-! DEFINITION. The program status registers as 32-bit images (10_state.md R27, R28), the condition check
(40_dispatch.md R101), and the ALU with its flags (43_data_processing.md R164, R165, R172). -/

namespace Sys2Proof.Machine

/-! ### Modes and PSR images -/

/-- The mode a 5-bit field names; the other 25 values are invalid (R28). -/
def Mode.ofBits (b : BitVec 5) : Option Mode :=
  match b.toNat with
  | 0x10 => some .usr
  | 0x11 => some .fiq
  | 0x12 => some .irq
  | 0x13 => some .svc
  | 0x17 => some .abt
  | 0x1B => some .und
  | 0x1F => some .sys
  | _ => none

/-- The mode field of a mode (R28). -/
def Mode.bits : Mode → BitVec 5
  | .usr => 0x10
  | .fiq => 0x11
  | .irq => 0x12
  | .svc => 0x13
  | .abt => 0x17
  | .und => 0x1B
  | .sys => 0x1F

/-- The PSR image of a word (R27): none when its mode field is invalid (R28). -/
def Psr.ofWord (w : Word) : Option Psr :=
  match Mode.ofBits (w.extractLsb 4 0) with
  | none => none
  | some m =>
    some
      { n := w.getLsbD 31, z := w.getLsbD 30, c := w.getLsbD 29, v := w.getLsbD 28, reserved := w.extractLsb 27 8,
        i := w.getLsbD 7, f := w.getLsbD 6, t := w.getLsbD 5, mode := m }

/-- The 32 bits of a PSR (R27). -/
def Psr.toWord (p : Psr) : Word :=
  BitVec.ofBool p.n ++ BitVec.ofBool p.z ++ BitVec.ofBool p.c ++ BitVec.ofBool p.v ++ p.reserved ++ BitVec.ofBool p.i ++
    BitVec.ofBool p.f ++ BitVec.ofBool p.t ++ p.mode.bits

/-! ### The condition check -/

/-- `ConditionPassed(cond)`, R101: reads N, Z, C and V and nothing else. -/
def conditionPassed (c : Cond) (p : Psr) : Bool :=
  match c with
  | .eq => p.z
  | .ne => !p.z
  | .cs => p.c
  | .cc => !p.c
  | .mi => p.n
  | .pl => !p.n
  | .vs => p.v
  | .vc => !p.v
  | .hi => p.c && !p.z
  | .ls => !p.c || p.z
  | .ge => p.n == p.v
  | .lt => p.n != p.v
  | .gt => !p.z && p.n == p.v
  | .le => p.z || p.n != p.v
  | .al => true
  | .nv => false

/-! ### The ALU -/

/-- A result with the carry and overflow that go with it. -/
structure AluResult where
  value : Word
  carry : Bool
  overflow : Bool
deriving DecidableEq, Repr

/-- `AddWithCarry(x, y, cin)`, R164: the exact sum, then the result modulo 2^32, the carry out of bit 31 and the
two's-complement overflow. -/
def addWithCarry (x y : Word) (cin : Bool) : AluResult :=
  let sum := x.toNat + y.toNat + cin.toNat
  let result : Word := BitVec.ofNat 32 sum
  { value := result
    carry := decide (2 ^ 32 ≤ sum)
    overflow := x.getLsbD 31 == y.getLsbD 31 && result.getLsbD 31 != x.getLsbD 31 }

/-- R165: whether an opcode writes Rd. -/
def aluWrites : AluOp → Bool
  | .tst | .teq | .cmp | .cmn => false
  | .and | .eor | .sub | .rsb | .add | .adc | .sbc | .rsc | .orr | .mov | .bic | .mvn => true

/-- R165 and R172: the result of an opcode on operand 1 `a` and operand 2 `b`. A logical opcode carries out the
shifter's carry `sc` and keeps V; an arithmetic opcode takes both from `addWithCarry`. -/
def alu (op : AluOp) (a b : Word) (sc : Bool) (p : Psr) : AluResult :=
  match op with
  | .and => { value := a &&& b, carry := sc, overflow := p.v }
  | .eor => { value := a ^^^ b, carry := sc, overflow := p.v }
  | .sub => addWithCarry a (~~~b) true
  | .rsb => addWithCarry b (~~~a) true
  | .add => addWithCarry a b false
  | .adc => addWithCarry a b p.c
  | .sbc => addWithCarry a (~~~b) p.c
  | .rsc => addWithCarry b (~~~a) p.c
  | .tst => { value := a &&& b, carry := sc, overflow := p.v }
  | .teq => { value := a ^^^ b, carry := sc, overflow := p.v }
  | .cmp => addWithCarry a (~~~b) true
  | .cmn => addWithCarry a b false
  | .orr => { value := a ||| b, carry := sc, overflow := p.v }
  | .mov => { value := b, carry := sc, overflow := p.v }
  | .bic => { value := a &&& ~~~b, carry := sc, overflow := p.v }
  | .mvn => { value := ~~~b, carry := sc, overflow := p.v }

/-- R172: N, Z, C and V from a result; every other bit is kept. -/
def setFlags (r : AluResult) (p : Psr) : Psr :=
  { p with n := r.value.getLsbD 31, z := r.value == 0, c := r.carry, v := r.overflow }

end Sys2Proof.Machine
end

