-- ==== Sys2Proof/Machine/Memory.lean ====
section
/-! DEFINITION. The bus's memory as data (20_memory.md R50 to R53, R67): one space of 2^32 bytes, held as the list of the
bytes that differ from the background, in one canonical form. -/

namespace Sys2Proof.Machine

/-- What an address that is not listed reads as. The spec leaves memory at launch to the bus (R67, R342): log entry 2
(DESIGN CHOICE). -/
def Memory.background (_ : Nat) : Byte := 0

/-- The byte at an address. -/
def Memory.get : Memory → Nat → Byte
  | [], a => Memory.background a
  | (k, b) :: m, a => if k = a then b else Memory.get m a

/-- The list without an address. -/
def Memory.erase : Memory → Nat → Memory
  | [], _ => []
  | (k, b) :: m, a => if k = a then Memory.erase m a else (k, b) :: Memory.erase m a

/-- The list with an entry put before the first higher address. -/
def Memory.insert : Memory → Nat → Byte → Memory
  | [], a, b => [(a, b)]
  | (k, c) :: m, a, b => if a < k then (a, b) :: (k, c) :: m else (k, c) :: Memory.insert m a b

/-- A byte written: an entry equal to the background is not listed. -/
def Memory.set (m : Memory) (a : Nat) (b : Byte) : Memory :=
  if b = Memory.background a then Memory.erase m a else Memory.insert (Memory.erase m a) a b

/-- The canonical form: addresses strictly rising and below 2^32 (R51), no entry equal to the background. -/
abbrev Memory.wf (m : Memory) : Prop :=
  m.Pairwise (fun x y => x.1 < y.1) ∧ ∀ x ∈ m, x.1 < 2 ^ 32 ∧ x.2 ≠ Memory.background x.1

/-- The byte at a 32-bit address (R51). -/
def Memory.byteAt (m : Memory) (a : Word) : Byte := m.get a.toNat

/-- A byte written at a 32-bit address (R51). -/
def Memory.setByte (m : Memory) (a : Word) (b : Byte) : Memory := m.set a.toNat b

/-- The halfword at an address: little-endian (R53). -/
def Memory.halfAt (m : Memory) (a : Word) : Half := m.byteAt (a + 1) ++ m.byteAt a

/-- The word at an address: little-endian (R53). -/
def Memory.wordAt (m : Memory) (a : Word) : Word :=
  m.byteAt (a + 3) ++ m.byteAt (a + 2) ++ m.byteAt (a + 1) ++ m.byteAt a

/-- A halfword written: little-endian (R53). -/
def Memory.setHalf (m : Memory) (a : Word) (v : Half) : Memory :=
  (m.setByte a (v.extractLsb 7 0)).setByte (a + 1) (v.extractLsb 15 8)

/-- A word written: little-endian (R53). -/
def Memory.setWord (m : Memory) (a v : Word) : Memory :=
  (((m.setByte a (v.extractLsb 7 0)).setByte (a + 1) (v.extractLsb 15 8)).setByte (a + 2) (v.extractLsb 23 16)).setByte
    (a + 3) (v.extractLsb 31 24)

/-- Byte writes in order, as a free bus access may make them (`BusEffect.changes`). -/
def Memory.setBytes : Memory → List (Word × Byte) → Memory
  | m, [] => m
  | m, (a, b) :: rest => Memory.setBytes (m.setByte a b) rest

end Sys2Proof.Machine
end

