-- ==== Sys2Proof/Machine/Ops.lean ====
section
/-! DEFINITION. The shared operations: registers through their banks (10_state.md R22, R24), SPSR slots (R29), bus
accesses (20_memory.md R50 to R58 and R67), taking an exception and the status copy that returns from one
(60_exceptions.md R303, 43_data_processing.md R173), the pipeline actions (40_dispatch.md R111 to R114), and the frame every handler runs in
(R100, R102, R107, R108). -/

namespace Sys2Proof.Machine

/-! ### General registers -/

/-- The bank of R13 and R14 in a mode (R22). -/
def Mode.bank : Mode → Bank
  | .usr => .usr
  | .fiq => .fiq
  | .irq => .irq
  | .svc => .svc
  | .abt => .abt
  | .und => .und
  | .sys => .usr

/-- `bank(m, i)`, R22: the physical register index `i` names in a mode; none for 15, whose storage is `PCF` (R24). -/
def bank (m : Mode) (i : RegIx) : Option PhysReg :=
  match i.toNat with
  | 0 => some (.low 0)
  | 1 => some (.low 1)
  | 2 => some (.low 2)
  | 3 => some (.low 3)
  | 4 => some (.low 4)
  | 5 => some (.low 5)
  | 6 => some (.low 6)
  | 7 => some (.low 7)
  | 8 => some (if m = .fiq then .fiqHigh 0 else .usrHigh 0)
  | 9 => some (if m = .fiq then .fiqHigh 1 else .usrHigh 1)
  | 10 => some (if m = .fiq then .fiqHigh 2 else .usrHigh 2)
  | 11 => some (if m = .fiq then .fiqHigh 3 else .usrHigh 3)
  | 12 => some (if m = .fiq then .fiqHigh 4 else .usrHigh 4)
  | 13 => some (.sp m.bank)
  | 14 => some (.lr m.bank)
  | _ => none

/-- One register of a bank. -/
def Banked.get (r : Banked) : Bank → Word
  | .usr => r.usr
  | .fiq => r.fiq
  | .irq => r.irq
  | .svc => r.svc
  | .abt => r.abt
  | .und => r.und

/-- One register of a bank written. -/
def Banked.set (r : Banked) (b : Bank) (v : Word) : Banked :=
  match b with
  | .usr => { r with usr := v }
  | .fiq => { r with fiq := v }
  | .irq => { r with irq := v }
  | .svc => { r with svc := v }
  | .abt => { r with abt := v }
  | .und => { r with und := v }

/-- The value of a physical register (R21). -/
def Regs.get (r : Regs) : PhysReg → Word
  | .low k => r.low[k.val]
  | .usrHigh k => r.usrHigh[k.val]
  | .fiqHigh k => r.fiqHigh[k.val]
  | .sp b => r.sp.get b
  | .lr b => r.lr.get b

/-- A physical register written (R21). -/
def Regs.set (r : Regs) (p : PhysReg) (v : Word) : Regs :=
  match p with
  | .low k => { r with low := r.low.set k.val v }
  | .usrHigh k => { r with usrHigh := r.usrHigh.set k.val v }
  | .fiqHigh k => { r with fiqHigh := r.fiqHigh.set k.val v }
  | .sp b => { r with sp := r.sp.set b v }
  | .lr b => { r with lr := r.lr.set b v }

/-- A register read, `x[i]`: the current mode's register, and `PCF` for 15 (R8, R22, R24). -/
def State.readReg (s : State) (i : RegIx) : Word :=
  match bank s.cpsr.mode i with
  | some p => s.regs.get p
  | none => s.pcf

/-- A register write, `x[i] <- v`: all 32 bits, into the current mode's register, and into `PCF` for 15 (R8, R22, R24). -/
def State.writeReg (s : State) (i : RegIx) (v : Word) : State :=
  match bank s.cpsr.mode i with
  | some p => { s with regs := s.regs.set p v }
  | none => { s with pcf := v }

/-! ### SPSR slots -/

/-- The SPSR of a mode (R29): none in usr and sys. -/
def Spsrs.get (p : Spsrs) : Mode → Option Word
  | .usr => none
  | .fiq => some p.fiq
  | .irq => some p.irq
  | .svc => some p.svc
  | .abt => some p.abt
  | .und => some p.und
  | .sys => none

/-- The SPSR of a mode written, a whole image (R29); usr and sys have none to write. -/
def Spsrs.set (p : Spsrs) (m : Mode) (v : Word) : Spsrs :=
  match m with
  | .usr => p
  | .fiq => { p with fiq := v }
  | .irq => { p with irq := v }
  | .svc => { p with svc := v }
  | .abt => { p with abt := v }
  | .und => { p with und := v }
  | .sys => p

/-- `SPSR_cur`, R29. -/
def State.spsrCur (s : State) : Option Word := s.spsr.get s.cpsr.mode

/-! ### The bus -/

/-- Whether an address is a multiple of the width (R54). -/
def aligned (width : Width) (a : Word) : Bool :=
  match width with
  | .byte => true
  | .half => a.extractLsb 0 0 == 0b0#1
  | .word => a.extractLsb 1 0 == 0b00#2

/-- The low bits of a value that a bus access of a width carries, zero-extended (R9, R56). -/
def busValue (width : Width) (v : Word) : Word :=
  match width with
  | .byte => (v.setWidth 8).setWidth 32
  | .half => (v.setWidth 16).setWidth 32
  | .word => v

/-- Whether the launch gives an address to the bus's free behaviour. -/
def Launch.device (l : Launch) (a : Word) : Bool := l.devices.any fun w => decide ((a - w.base).toNat < w.size)

/-- Whether an access goes to the flat memory: an aligned one outside every window (R53, R54; log entry 4). The address of
the access decides, not those of its other bytes. -/
def Launch.plain (l : Launch) (width : Width) (a : Word) : Bool := aligned width a && !l.device a

/-- Whether an access has no step: a misaligned one outside every window, under `Misaligned.stuck` (R67). -/
def Launch.stuckAt (l : Launch) (width : Width) (a : Word) : Bool :=
  !aligned width a && !l.device a && l.misaligned == .stuck

/-- What a bus read returns, zero-extended (R9, R53): the bytes of memory where the access is plain, and the bus's free
value where it is not (R50, R54; log entries 3 and 4). -/
def State.busReadValue (s : State) (width : Width) (a : Word) : Word :=
  if s.launch.plain width a = true then
    match width with
    | .byte => (s.mem.byteAt a).setWidth 32
    | .half => (s.mem.halfAt a).setWidth 32
    | .word => s.mem.wordAt a
  else busValue width (Config.busRead s.steps width a s.mem s.dev).1

/-- The memory a bus read leaves: a plain read has no side effect (R67), any other the bus's free ones (R58). -/
def State.busReadMem (s : State) (width : Width) (a : Word) : Memory :=
  if s.launch.plain width a = true then s.mem
  else s.mem.setBytes (Config.busRead s.steps width a s.mem s.dev).2.changes

/-- The bus's other state after a bus read. -/
def State.busReadDev (s : State) (width : Width) (a : Word) : Nat :=
  if s.launch.plain width a = true then s.dev else (Config.busRead s.steps width a s.mem s.dev).2.dev

/-- The memory a bus write leaves (R53, R56): the value's bytes where the access is plain, and the bus's free changes where
it is not (R50, R54; log entries 3 and 4). -/
def State.busWriteMem (s : State) (width : Width) (a v : Word) : Memory :=
  if s.launch.plain width a = true then
    match width with
    | .byte => s.mem.setByte a (v.extractLsb 7 0)
    | .half => s.mem.setHalf a (v.extractLsb 15 0)
    | .word => s.mem.setWord a v
  else s.mem.setBytes (Config.busWrite s.steps width a (busValue width v) s.mem s.dev).changes

/-- The bus's other state after a bus write. -/
def State.busWriteDev (s : State) (width : Width) (a v : Word) : Nat :=
  if s.launch.plain width a = true then s.dev
  else (Config.busWrite s.steps width a (busValue width v) s.mem s.dev).dev

/-- `MemRead(a, n)`, one bus read (R9, R50, R57, R58): the state after it; the value is `busReadValue`. -/
def State.afterRead (s : State) (width : Width) (a : Word) : State :=
  { s with
    mem := s.busReadMem width a
    dev := s.busReadDev width a
    busLog := { op := .read, width := width, addr := a, value := s.busReadValue width a } :: s.busLog }

/-- `MemWrite(a, n, v)`, one bus write of the low 8n bits of `v` (R9, R50, R57). -/
def State.busWrite (s : State) (width : Width) (a v : Word) : State :=
  { s with
    mem := s.busWriteMem width a v
    dev := s.busWriteDev width a v
    busLog := { op := .write, width := width, addr := a, value := busValue width v } :: s.busLog }

/-- `icycles <- icycles + 1` (R10, R35). -/
def State.chargeCycle (s : State) : State := { s with icycles := s.icycles + 1 }

/-! ### Taking an exception and returning from one -/

/-- The exception classes of R301 that have an entry. Reset is a procedure of its own (R340) and 0x14 is reserved
(R308). Undefined, prefetch abort and data abort are never entered (R306, R307): the table gives them for completeness. -/
inductive ExceptionClass where
  | undefinedInstruction
  | swi
  | prefetchAbort
  | dataAbort
  | irq
  | fiq
deriving DecidableEq, Repr

/-- The vector of an exception class (R301, R302). -/
def ExceptionClass.vector : ExceptionClass → Word
  | .undefinedInstruction => 0x00000004
  | .swi => 0x00000008
  | .prefetchAbort => 0x0000000C
  | .dataAbort => 0x00000010
  | .irq => 0x00000018
  | .fiq => 0x0000001C

/-- The mode an exception class enters (R301). -/
def ExceptionClass.mode : ExceptionClass → Mode
  | .undefinedInstruction => .und
  | .swi => .svc
  | .prefetchAbort => .abt
  | .dataAbort => .abt
  | .irq => .irq
  | .fiq => .fiq

/-- `EnterException(k, lr)`, R303: the mode switches first, so `x[14]` is the target mode's; the target mode's SPSR takes
the old CPSR whole; T = 0, I = 1, and F = 1 for FIQ only; `PCF` takes the vector. -/
def State.enterException (s : State) (k : ExceptionClass) (lr : Word) : State :=
  let s1 : State := { s with cpsr := { s.cpsr with mode := k.mode } }
  let s2 : State := { s1 with spsr := s1.spsr.set k.mode s.cpsr.toWord }
  let s3 : State := s2.writeReg 14 lr
  { s3 with
    cpsr := { s3.cpsr with t := false, i := true, f := if k = .fiq then true else s3.cpsr.f }
    pcf := k.vector }

/-- The status a return from exception restores (R173, R311): `SPSR_cur` as a PSR; none in usr and sys and for an
invalid mode field, where the copy is a misuse. -/
def State.returnStatus (s : State) : Option Psr := s.spsrCur.bind Psr.ofWord

/-! ### The pipeline -/

/-- What a handler returns (R10, R100): a pipeline action with the state it left, or an error; or nothing, where the bus
has no step. -/
inductive HandlerResult where
  /-- `return advance` (R105). -/
  | advance (s : State)
  /-- `return flush` (R105). -/
  | flush (s : State)
  /-- `raise` (R318). Errors come before any change of state (R108, R319), so no state is carried. -/
  | error (k : ErrorKind)
  /-- An access for which the bus has no step (R67). No state is carried: the spec gives none. -/
  | stuck
deriving DecidableEq, Repr

/-- `flush` when `b` holds, `advance` otherwise (R106). -/
def HandlerResult.flushIf (b : Bool) (s : State) : HandlerResult :=
  if b = true then .flush s else .advance s

/-- The address of the word the driver prefetches at the start of a step (R111). -/
def State.prefetchAddr (s : State) : Word := s.ia + 8

/-- `ApplyAdvance(S, fetched)`, R112. -/
def State.applyAdvance (s : State) (fetched : Word) : State :=
  { s with ia := s.ia + 4, qcur := s.qnext, qnext := fetched, pcf := s.ia + 4 + 8 }

/-- The refill of a flush in ARM state at an address (R114). -/
def State.refill (s : State) (a : Word) : State :=
  let s1 : State := { s with ia := a }
  let s2 : State := s1.afterRead .word a
  let s3 : State := s2.afterRead .word (a + 4)
  { s3 with qcur := s1.busReadValue .word a, qnext := s2.busReadValue .word (a + 4), pcf := a + 8 }

/-- `ApplyFlush(S)`, R114: in THUMB state no refill, and the refusal mark; otherwise the refill at `PCF` with bits 1:0
cleared. -/
def State.applyFlush (s : State) : State :=
  if s.cpsr.t = true then { s with ia := s.pcf, refused := true } else s.refill (s.pcf &&& 0xFFFFFFFC)

/-- The record of an error in the instruction of class `cls` (R37, R110, R318). -/
def State.errorRecord (s : State) (k : ErrorKind) (cls : InstrClass) : ErrorRecord :=
  { kind := k, ia := s.ia, raw := s.qcur, cls := cls }

/-- The frame every handler runs in: the prefetch read at `IA + 8` (R111), the condition check (R102), the handler, then
the pipeline action it returned (R112, R114); an error leaves the state as it was after the prefetch, with `ERR` set
(R37, R108, R319); a stuck access ends the step (R67). -/
def runHandler (cls : InstrClass) (c : Cond) (handler : State → HandlerResult) (s : State) :
    Host.Outcome State Fault Refusal :=
  let fetched := s.busReadValue .word s.prefetchAddr
  let s0 := s.afterRead .word s.prefetchAddr
  if conditionPassed c s0.cpsr = true then
    match handler s0 with
    | .advance s1 => .next (s1.applyAdvance fetched)
    | .flush s1 => .next s1.applyFlush
    | .error k => .fault (.raised (s0.errorRecord k cls) { s0 with err := some (s0.errorRecord k cls) })
    | .stuck => .fault .busStuck
  else .next (s0.applyAdvance fetched)

end Sys2Proof.Machine
end

