-- ==== Sys2Proof/Machine/Operands.lean ====
section
/-! DEFINITION. Every operand form: the barrel shifter (43_data_processing.md R160 to R163, R193), operand 2 (R75, R76),
and the offsets of a single transfer (44_single_transfer.md R226). -/

namespace Sys2Proof.Machine

/-- A shifted value and the shifter's carry-out. -/
structure Shifted where
  value : Word
  carry : Bool
deriving DecidableEq, Repr

/-- All ones when bit 31 is set, else zero: a right arithmetic shift by 32 or more (R160, R161). -/
def signFill (m : Word) : Word := if m.getLsbD 31 = true then 0xFFFFFFFF else 0

/-- `ShiftImm(type, n, m, cin)`, R160. -/
def shiftImm (type : ShiftType) (n : BitVec 5) (m : Word) (cin : Bool) : Shifted :=
  let k := n.toNat
  match type with
  | .lsl =>
    if k = 0 then { value := m, carry := cin } else { value := m <<< k, carry := m.getLsbD (32 - k) }
  | .lsr =>
    if k = 0 then { value := 0, carry := m.getLsbD 31 } else { value := m >>> k, carry := m.getLsbD (k - 1) }
  | .asr =>
    if k = 0 then { value := signFill m, carry := m.getLsbD 31 }
    else { value := m.sshiftRight k, carry := m.getLsbD (k - 1) }
  | .ror =>
    if k = 0 then { value := (BitVec.ofBool cin ++ (0 : BitVec 31)) ||| (m >>> 1), carry := m.getLsbD 0 }
    else { value := m.rotateRight k, carry := m.getLsbD (k - 1) }

/-- `ShiftReg(type, n, m, cin)`, R161, for an 8-bit amount. -/
def shiftReg (type : ShiftType) (n : BitVec 8) (m : Word) (cin : Bool) : Shifted :=
  let k := n.toNat
  if k = 0 then { value := m, carry := cin }
  else
    match type with
    | .lsl =>
      if k < 32 then { value := m <<< k, carry := m.getLsbD (32 - k) }
      else if k = 32 then { value := 0, carry := m.getLsbD 0 }
      else { value := 0, carry := false }
    | .lsr =>
      if k < 32 then { value := m >>> k, carry := m.getLsbD (k - 1) }
      else if k = 32 then { value := 0, carry := m.getLsbD 31 }
      else { value := 0, carry := false }
    | .asr =>
      if k < 32 then { value := m.sshiftRight k, carry := m.getLsbD (k - 1) }
      else { value := signFill m, carry := m.getLsbD 31 }
    | .ror =>
      let r := (n.extractLsb 4 0).toNat
      if r = 0 then { value := m, carry := m.getLsbD 31 }
      else { value := m.rotateRight r, carry := m.getLsbD (r - 1) }

/-- `ImmOperand(rot, imm8, cin)`, R163 and R75. -/
def immOperand (rot : BitVec 4) (imm8 : BitVec 8) (cin : Bool) : Shifted :=
  let value : Word := (imm8.setWidth 32).rotateRight (2 * rot.toNat)
  { value := value, carry := if rot = 0 then cin else value.getLsbD 31 }

/-- Operand 2 of a data-processing instruction (R75, R76). -/
inductive Operand2 where
  /-- A rotated immediate, R75. -/
  | imm (rot : BitVec 4) (imm8 : BitVec 8)
  /-- A register with an immediate shift amount, R76. -/
  | shift (type : ShiftType) (amount : BitVec 5) (rm : RegIx)
  /-- A register with the shift amount in a register, R76. -/
  | regShift (type : ShiftType) (rs rm : RegIx)
deriving DecidableEq, Repr

/-- Operand 2 and the shifter's carry-out (R160 to R163); a register 15 reads as `PCF` (R103, D14). -/
def Operand2.eval (o : Operand2) (s : State) : Shifted :=
  match o with
  | .imm rot imm8 => immOperand rot imm8 s.cpsr.c
  | .shift type amount rm => shiftImm type amount (s.readReg rm) s.cpsr.c
  | .regShift type rs rm => shiftReg type ((s.readReg rs).extractLsb 7 0) (s.readReg rm) s.cpsr.c

/-- The internal cycle of a register-specified shift (R162). -/
def Operand2.charge (o : Operand2) (s : State) : State :=
  match o with
  | .imm _ _ => s
  | .shift _ _ _ => s
  | .regShift _ _ _ => s.chargeCycle

/-- The offset of a single transfer (R81, R82, R226). -/
inductive Offset where
  /-- LDR_STR with I = 0. -/
  | imm12 (imm : BitVec 12)
  /-- LDR_STR with I = 1. -/
  | shifted (type : ShiftType) (amount : BitVec 5) (rm : RegIx)
  /-- LDR_STR_HS_IMM. -/
  | imm4 (hi lo : BitVec 4)
  /-- LDR_STR_HS_REG. -/
  | reg (rm : RegIx)
deriving DecidableEq, Repr

/-- `Offset(d)`, R226: unsigned; the shifter's carry is dropped. -/
def Offset.eval (o : Offset) (s : State) : Word :=
  match o with
  | .imm12 imm => imm.setWidth 32
  | .shifted type amount rm => (shiftImm type amount (s.readReg rm) s.cpsr.c).value
  | .imm4 hi lo => (hi ++ lo).setWidth 32
  | .reg rm => s.readReg rm

end Sys2Proof.Machine
end

