-- ==== Sys2Proof/Machine/BlockTransfer.lean ====
section
/-! DEFINITION. Block data transfer (45_block_transfer.md R260 to R282). -/

namespace Sys2Proof.Machine

/-- The operands of `ExecBlock` (R260), S apart. -/
structure BlockTransfer where
  load : Bool
  p : Bool
  u : Bool
  w : Bool
  rn : RegIx
  list : BitVec 16
deriving DecidableEq, Repr

/-- The sixteen register numbers, ascending. -/
def allRegs : List RegIx := [0, 1, 2, 3, 4, 5, 6, 7, 8, 9, 10, 11, 12, 13, 14, 15]

/-- The listed registers, ascending (R261). -/
def BlockTransfer.regs (t : BlockTransfer) : List RegIx := allRegs.filter fun r => t.list.getLsbD r.toNat

/-- The listed registers in traversal order (R263). -/
def BlockTransfer.order (t : BlockTransfer) : List RegIx := if t.u = true then t.regs else t.regs.reverse

/-- The address one step on: `+4` ascending, `-4` descending (R261). -/
def BlockTransfer.next (t : BlockTransfer) (a : Word) : Word := if t.u = true then a + 4 else a - 4

/-- The address of the access that starts with the running address `a` (R261): stepped first when P = 1. -/
def BlockTransfer.accessAddr (t : BlockTransfer) (a : Word) : Word := if t.p = true then t.next a else a

/-- The transfer of one register at one address (R261): a load charges a cycle (R268), a store of R15 sends `IA + 12`
(R265). -/
def BlockTransfer.transferOne (t : BlockTransfer) (r : RegIx) (a : Word) (s : State) : State :=
  if t.load = true then ((s.afterRead .word a).writeReg r (s.busReadValue .word a)).chargeCycle
  else s.busWrite .word a (if r = 15 then s.ia + 12 else s.readReg r)

/-- The loop of R261 over the registers still to move, from the running address: the final address and the state. -/
def BlockTransfer.run (t : BlockTransfer) : List RegIx → Word → State → Word × State
  | [], a, s => (a, s)
  | r :: rest, a, s => BlockTransfer.run t rest (t.next a) (t.transferOne r (t.accessAddr a) s)

/-- The addresses of the loop's accesses (R261), in order. -/
def BlockTransfer.addresses (t : BlockTransfer) : List RegIx → Word → List Word
  | [], _ => []
  | _ :: rest, a => t.accessAddr a :: BlockTransfer.addresses t rest (t.next a)

/-- Whether the base is written back (R264): not when a load's list holds the base. -/
def BlockTransfer.writesBack (t : BlockTransfer) : Bool := t.w && !(t.load && t.list.getLsbD t.rn.toNat)

/-- `ExecBlock`, R261: the S check first (R262), the transfers in traversal order, then the writeback of the final
address. The base is `x[Rn]`, `PCF` for R15 (R270). An access for which the bus has no step (R67) ends it. -/
def blockTransfer (sBit : Bool) (t : BlockTransfer) (s : State) : HandlerResult :=
  if sBit = true then .error .fatalMisuse
  else if (t.addresses t.order (s.readReg t.rn)).any (s.launch.stuckAt .word) = true then .stuck
  else
    let r := t.run t.order (s.readReg t.rn) s
    let s1 := if t.writesBack = true then r.2.writeReg t.rn r.1 else r.2
    HandlerResult.flushIf ((t.load && t.list.getLsbD 15) || (t.writesBack && t.rn == 15)) s1

/-- The operands of a row of the block-transfer format (R83). -/
def blockOf (f : BlockFields) (load p u : Bool) : BlockTransfer :=
  { load := load, p := p, u := u, w := f.w, rn := f.rn, list := f.list }

/-- LDMIA (R273). -/
def execLdmia (f : BlockFields) (s : State) : Host.Outcome State Fault Refusal :=
  runHandler .ldmStm f.cond (blockTransfer false (blockOf f true false true)) s

/-- LDMIB (R274). -/
def execLdmib (f : BlockFields) (s : State) : Host.Outcome State Fault Refusal :=
  runHandler .ldmStm f.cond (blockTransfer false (blockOf f true true true)) s

/-- LDMDA (R275). -/
def execLdmda (f : BlockFields) (s : State) : Host.Outcome State Fault Refusal :=
  runHandler .ldmStm f.cond (blockTransfer false (blockOf f true false false)) s

/-- LDMDB (R276). -/
def execLdmdb (f : BlockFields) (s : State) : Host.Outcome State Fault Refusal :=
  runHandler .ldmStm f.cond (blockTransfer false (blockOf f true true false)) s

/-- STMIA (R277). -/
def execStmia (f : BlockFields) (s : State) : Host.Outcome State Fault Refusal :=
  runHandler .ldmStm f.cond (blockTransfer false (blockOf f false false true)) s

/-- STMIB (R278). -/
def execStmib (f : BlockFields) (s : State) : Host.Outcome State Fault Refusal :=
  runHandler .ldmStm f.cond (blockTransfer false (blockOf f false true true)) s

/-- STMDA (R279). -/
def execStmda (f : BlockFields) (s : State) : Host.Outcome State Fault Refusal :=
  runHandler .ldmStm f.cond (blockTransfer false (blockOf f false false false)) s

/-- STMDB (R280). -/
def execStmdb (f : BlockFields) (s : State) : Host.Outcome State Fault Refusal :=
  runHandler .ldmStm f.cond (blockTransfer false (blockOf f false true false)) s

/-- LDMIA^ (R282, S = 1). -/
def execLdmiaUser (f : BlockFields) (s : State) : Host.Outcome State Fault Refusal :=
  runHandler .ldmStm f.cond (blockTransfer true (blockOf f true false true)) s

/-- LDMIB^ (R282, S = 1). -/
def execLdmibUser (f : BlockFields) (s : State) : Host.Outcome State Fault Refusal :=
  runHandler .ldmStm f.cond (blockTransfer true (blockOf f true true true)) s

/-- LDMDA^ (R282, S = 1). -/
def execLdmdaUser (f : BlockFields) (s : State) : Host.Outcome State Fault Refusal :=
  runHandler .ldmStm f.cond (blockTransfer true (blockOf f true false false)) s

/-- LDMDB^ (R282, S = 1). -/
def execLdmdbUser (f : BlockFields) (s : State) : Host.Outcome State Fault Refusal :=
  runHandler .ldmStm f.cond (blockTransfer true (blockOf f true true false)) s

/-- STMIA^ (R282, S = 1). -/
def execStmiaUser (f : BlockFields) (s : State) : Host.Outcome State Fault Refusal :=
  runHandler .ldmStm f.cond (blockTransfer true (blockOf f false false true)) s

/-- STMIB^ (R282, S = 1). -/
def execStmibUser (f : BlockFields) (s : State) : Host.Outcome State Fault Refusal :=
  runHandler .ldmStm f.cond (blockTransfer true (blockOf f false true true)) s

/-- STMDA^ (R282, S = 1). -/
def execStmdaUser (f : BlockFields) (s : State) : Host.Outcome State Fault Refusal :=
  runHandler .ldmStm f.cond (blockTransfer true (blockOf f false false false)) s

/-- STMDB^ (R282, S = 1). -/
def execStmdbUser (f : BlockFields) (s : State) : Host.Outcome State Fault Refusal :=
  runHandler .ldmStm f.cond (blockTransfer true (blockOf f false true false)) s

end Sys2Proof.Machine
end

