-- ==== Sys2Proof/Machine/Branch.lean ====
section
/-! DEFINITION. Branch and branch-and-exchange (41_branch.md R120 to R124). -/

namespace Sys2Proof.Machine

/-- The byte offset of a branch, `sext_24(imm24) << 2` (R77). -/
def branchOffset (imm24 : BitVec 24) : Word := imm24.signExtend 32 <<< 2

/-- B and BL, R120 and R121: the link register of the current mode first, then the target, and always a flush. -/
def branchHandler (link : Bool) (imm24 : BitVec 24) (s : State) : HandlerResult :=
  let s1 := if link = true then s.writeReg 14 ((s.ia + 4) &&& 0xFFFFFFFE) else s
  .flush (s1.writeReg 15 (s1.pcf + branchOffset imm24))

/-- BX, R123: bit 0 of the operand selects the execution state, and `PCF` takes the operand with bit 0 clear. -/
def branchExchangeHandler (rn : RegIx) (s : State) : HandlerResult :=
  let v := s.readReg rn
  let s1 : State := { s with cpsr := { s.cpsr with t := v.getLsbD 0 } }
  .flush (s1.writeReg 15 (v &&& 0xFFFFFFFE))

/-- BX (R123). -/
def execBx (f : BxFields) (s : State) : Host.Outcome State Fault Refusal :=
  runHandler .bx f.cond (branchExchangeHandler f.rn) s

/-- B (R120). -/
def execB (f : BranchFields) (s : State) : Host.Outcome State Fault Refusal :=
  runHandler .bBl f.cond (branchHandler false f.imm24) s

/-- BL (R121). -/
def execBl (f : BranchFields) (s : State) : Host.Outcome State Fault Refusal :=
  runHandler .bBl f.cond (branchHandler true f.imm24) s

end Sys2Proof.Machine
end

