-- ==== Sys2Proof/Machine/DataProcessing.lean ====
section
/-! DEFINITION. Data processing (43_data_processing.md R171 to R191). -/

namespace Sys2Proof.Machine

/-- What a data-processing instruction does to the CPSR (R172, R173). -/
inductive StatusUpdate where
  /-- S = 0: no change. -/
  | keep
  /-- S = 1: the flags from the result. -/
  | flags
  /-- `CPSR <- SPSR_cur`. -/
  | restore (p : Psr)
deriving DecidableEq, Repr

/-- R172 and R173: which update applies; none is the misuse of R173 (no SPSR slot, or an invalid mode field in it). -/
def statusUpdate (op : AluOp) (setsFlags : Bool) (rd : RegIx) (s : State) : Option StatusUpdate :=
  if setsFlags = false then some .keep
  else if s.launch.dpPcSRestoresSpsr = true ∧ rd = 15 ∧ aluWrites op = true then s.returnStatus.map .restore
  else some .flags

/-- The CPSR after a data-processing instruction (R172, R173). -/
def StatusUpdate.apply (u : StatusUpdate) (r : AluResult) (p : Psr) : Psr :=
  match u with
  | .keep => p
  | .flags => setFlags r p
  | .restore q => q

/-- `ExecDP`, R174: every operand is read before anything is written; a write of R15 flushes (R175). -/
def dataProcessing (op : AluOp) (setsFlags : Bool) (rn rd : RegIx) (o : Operand2) (s : State) : HandlerResult :=
  match statusUpdate op setsFlags rd s with
  | none => .error .fatalMisuse
  | some update =>
    let b := o.eval s
    let r := alu op (s.readReg rn) b.value b.carry s.cpsr
    let s1 := o.charge s
    let s2 := if aluWrites op = true then s1.writeReg rd r.value else s1
    HandlerResult.flushIf (aluWrites op && rd == 15) { s2 with cpsr := update.apply r s2.cpsr }

/-- AND (R176, immediate operand). -/
def execAndImm (f : DpImmFields) (s : State) : Host.Outcome State Fault Refusal :=
  runHandler .dp f.cond (dataProcessing .and f.s f.rn f.rd (.imm f.rot f.imm8)) s

/-- AND (R176, register operand, immediate shift). -/
def execAndShift (f : DpShiftFields) (s : State) : Host.Outcome State Fault Refusal :=
  runHandler .dp f.cond (dataProcessing .and f.s f.rn f.rd (.shift f.type f.shiftImm f.rm)) s

/-- AND (R176, register operand, register shift). -/
def execAndReg (f : DpRegFields) (s : State) : Host.Outcome State Fault Refusal :=
  runHandler .dp f.cond (dataProcessing .and f.s f.rn f.rd (.regShift f.type f.rs f.rm)) s

/-- EOR (R177, immediate operand). -/
def execEorImm (f : DpImmFields) (s : State) : Host.Outcome State Fault Refusal :=
  runHandler .dp f.cond (dataProcessing .eor f.s f.rn f.rd (.imm f.rot f.imm8)) s

/-- EOR (R177, register operand, immediate shift). -/
def execEorShift (f : DpShiftFields) (s : State) : Host.Outcome State Fault Refusal :=
  runHandler .dp f.cond (dataProcessing .eor f.s f.rn f.rd (.shift f.type f.shiftImm f.rm)) s

/-- EOR (R177, register operand, register shift). -/
def execEorReg (f : DpRegFields) (s : State) : Host.Outcome State Fault Refusal :=
  runHandler .dp f.cond (dataProcessing .eor f.s f.rn f.rd (.regShift f.type f.rs f.rm)) s

/-- SUB (R178, immediate operand). -/
def execSubImm (f : DpImmFields) (s : State) : Host.Outcome State Fault Refusal :=
  runHandler .dp f.cond (dataProcessing .sub f.s f.rn f.rd (.imm f.rot f.imm8)) s

/-- SUB (R178, register operand, immediate shift). -/
def execSubShift (f : DpShiftFields) (s : State) : Host.Outcome State Fault Refusal :=
  runHandler .dp f.cond (dataProcessing .sub f.s f.rn f.rd (.shift f.type f.shiftImm f.rm)) s

/-- SUB (R178, register operand, register shift). -/
def execSubReg (f : DpRegFields) (s : State) : Host.Outcome State Fault Refusal :=
  runHandler .dp f.cond (dataProcessing .sub f.s f.rn f.rd (.regShift f.type f.rs f.rm)) s

/-- RSB (R179, immediate operand). -/
def execRsbImm (f : DpImmFields) (s : State) : Host.Outcome State Fault Refusal :=
  runHandler .dp f.cond (dataProcessing .rsb f.s f.rn f.rd (.imm f.rot f.imm8)) s

/-- RSB (R179, register operand, immediate shift). -/
def execRsbShift (f : DpShiftFields) (s : State) : Host.Outcome State Fault Refusal :=
  runHandler .dp f.cond (dataProcessing .rsb f.s f.rn f.rd (.shift f.type f.shiftImm f.rm)) s

/-- RSB (R179, register operand, register shift). -/
def execRsbReg (f : DpRegFields) (s : State) : Host.Outcome State Fault Refusal :=
  runHandler .dp f.cond (dataProcessing .rsb f.s f.rn f.rd (.regShift f.type f.rs f.rm)) s

/-- ADD (R180, immediate operand). -/
def execAddImm (f : DpImmFields) (s : State) : Host.Outcome State Fault Refusal :=
  runHandler .dp f.cond (dataProcessing .add f.s f.rn f.rd (.imm f.rot f.imm8)) s

/-- ADD (R180, register operand, immediate shift). -/
def execAddShift (f : DpShiftFields) (s : State) : Host.Outcome State Fault Refusal :=
  runHandler .dp f.cond (dataProcessing .add f.s f.rn f.rd (.shift f.type f.shiftImm f.rm)) s

/-- ADD (R180, register operand, register shift). -/
def execAddReg (f : DpRegFields) (s : State) : Host.Outcome State Fault Refusal :=
  runHandler .dp f.cond (dataProcessing .add f.s f.rn f.rd (.regShift f.type f.rs f.rm)) s

/-- ADC (R181, immediate operand). -/
def execAdcImm (f : DpImmFields) (s : State) : Host.Outcome State Fault Refusal :=
  runHandler .dp f.cond (dataProcessing .adc f.s f.rn f.rd (.imm f.rot f.imm8)) s

/-- ADC (R181, register operand, immediate shift). -/
def execAdcShift (f : DpShiftFields) (s : State) : Host.Outcome State Fault Refusal :=
  runHandler .dp f.cond (dataProcessing .adc f.s f.rn f.rd (.shift f.type f.shiftImm f.rm)) s

/-- ADC (R181, register operand, register shift). -/
def execAdcReg (f : DpRegFields) (s : State) : Host.Outcome State Fault Refusal :=
  runHandler .dp f.cond (dataProcessing .adc f.s f.rn f.rd (.regShift f.type f.rs f.rm)) s

/-- SBC (R182, immediate operand). -/
def execSbcImm (f : DpImmFields) (s : State) : Host.Outcome State Fault Refusal :=
  runHandler .dp f.cond (dataProcessing .sbc f.s f.rn f.rd (.imm f.rot f.imm8)) s

/-- SBC (R182, register operand, immediate shift). -/
def execSbcShift (f : DpShiftFields) (s : State) : Host.Outcome State Fault Refusal :=
  runHandler .dp f.cond (dataProcessing .sbc f.s f.rn f.rd (.shift f.type f.shiftImm f.rm)) s

/-- SBC (R182, register operand, register shift). -/
def execSbcReg (f : DpRegFields) (s : State) : Host.Outcome State Fault Refusal :=
  runHandler .dp f.cond (dataProcessing .sbc f.s f.rn f.rd (.regShift f.type f.rs f.rm)) s

/-- RSC (R183, immediate operand). -/
def execRscImm (f : DpImmFields) (s : State) : Host.Outcome State Fault Refusal :=
  runHandler .dp f.cond (dataProcessing .rsc f.s f.rn f.rd (.imm f.rot f.imm8)) s

/-- RSC (R183, register operand, immediate shift). -/
def execRscShift (f : DpShiftFields) (s : State) : Host.Outcome State Fault Refusal :=
  runHandler .dp f.cond (dataProcessing .rsc f.s f.rn f.rd (.shift f.type f.shiftImm f.rm)) s

/-- RSC (R183, register operand, register shift). -/
def execRscReg (f : DpRegFields) (s : State) : Host.Outcome State Fault Refusal :=
  runHandler .dp f.cond (dataProcessing .rsc f.s f.rn f.rd (.regShift f.type f.rs f.rm)) s

/-- TST (R184, immediate operand). -/
def execTstImm (f : CmpImmFields) (s : State) : Host.Outcome State Fault Refusal :=
  runHandler .dp f.cond (dataProcessing .tst true f.rn f.rd (.imm f.rot f.imm8)) s

/-- TST (R184, register operand, immediate shift). -/
def execTstShift (f : CmpShiftFields) (s : State) : Host.Outcome State Fault Refusal :=
  runHandler .dp f.cond (dataProcessing .tst true f.rn f.rd (.shift f.type f.shiftImm f.rm)) s

/-- TST (R184, register operand, register shift). -/
def execTstReg (f : CmpRegFields) (s : State) : Host.Outcome State Fault Refusal :=
  runHandler .dp f.cond (dataProcessing .tst true f.rn f.rd (.regShift f.type f.rs f.rm)) s

/-- TEQ (R185, immediate operand). -/
def execTeqImm (f : CmpImmFields) (s : State) : Host.Outcome State Fault Refusal :=
  runHandler .dp f.cond (dataProcessing .teq true f.rn f.rd (.imm f.rot f.imm8)) s

/-- TEQ (R185, register operand, immediate shift). -/
def execTeqShift (f : CmpShiftFields) (s : State) : Host.Outcome State Fault Refusal :=
  runHandler .dp f.cond (dataProcessing .teq true f.rn f.rd (.shift f.type f.shiftImm f.rm)) s

/-- TEQ (R185, register operand, register shift). -/
def execTeqReg (f : CmpRegFields) (s : State) : Host.Outcome State Fault Refusal :=
  runHandler .dp f.cond (dataProcessing .teq true f.rn f.rd (.regShift f.type f.rs f.rm)) s

/-- CMP (R186, immediate operand). -/
def execCmpImm (f : CmpImmFields) (s : State) : Host.Outcome State Fault Refusal :=
  runHandler .dp f.cond (dataProcessing .cmp true f.rn f.rd (.imm f.rot f.imm8)) s

/-- CMP (R186, register operand, immediate shift). -/
def execCmpShift (f : CmpShiftFields) (s : State) : Host.Outcome State Fault Refusal :=
  runHandler .dp f.cond (dataProcessing .cmp true f.rn f.rd (.shift f.type f.shiftImm f.rm)) s

/-- CMP (R186, register operand, register shift). -/
def execCmpReg (f : CmpRegFields) (s : State) : Host.Outcome State Fault Refusal :=
  runHandler .dp f.cond (dataProcessing .cmp true f.rn f.rd (.regShift f.type f.rs f.rm)) s

/-- CMN (R187, immediate operand). -/
def execCmnImm (f : CmpImmFields) (s : State) : Host.Outcome State Fault Refusal :=
  runHandler .dp f.cond (dataProcessing .cmn true f.rn f.rd (.imm f.rot f.imm8)) s

/-- CMN (R187, register operand, immediate shift). -/
def execCmnShift (f : CmpShiftFields) (s : State) : Host.Outcome State Fault Refusal :=
  runHandler .dp f.cond (dataProcessing .cmn true f.rn f.rd (.shift f.type f.shiftImm f.rm)) s

/-- CMN (R187, register operand, register shift). -/
def execCmnReg (f : CmpRegFields) (s : State) : Host.Outcome State Fault Refusal :=
  runHandler .dp f.cond (dataProcessing .cmn true f.rn f.rd (.regShift f.type f.rs f.rm)) s

/-- ORR (R188, immediate operand). -/
def execOrrImm (f : DpImmFields) (s : State) : Host.Outcome State Fault Refusal :=
  runHandler .dp f.cond (dataProcessing .orr f.s f.rn f.rd (.imm f.rot f.imm8)) s

/-- ORR (R188, register operand, immediate shift). -/
def execOrrShift (f : DpShiftFields) (s : State) : Host.Outcome State Fault Refusal :=
  runHandler .dp f.cond (dataProcessing .orr f.s f.rn f.rd (.shift f.type f.shiftImm f.rm)) s

/-- ORR (R188, register operand, register shift). -/
def execOrrReg (f : DpRegFields) (s : State) : Host.Outcome State Fault Refusal :=
  runHandler .dp f.cond (dataProcessing .orr f.s f.rn f.rd (.regShift f.type f.rs f.rm)) s

/-- MOV (R189, immediate operand). -/
def execMovImm (f : DpImmFields) (s : State) : Host.Outcome State Fault Refusal :=
  runHandler .dp f.cond (dataProcessing .mov f.s f.rn f.rd (.imm f.rot f.imm8)) s

/-- MOV (R189, register operand, immediate shift). -/
def execMovShift (f : DpShiftFields) (s : State) : Host.Outcome State Fault Refusal :=
  runHandler .dp f.cond (dataProcessing .mov f.s f.rn f.rd (.shift f.type f.shiftImm f.rm)) s

/-- MOV (R189, register operand, register shift). -/
def execMovReg (f : DpRegFields) (s : State) : Host.Outcome State Fault Refusal :=
  runHandler .dp f.cond (dataProcessing .mov f.s f.rn f.rd (.regShift f.type f.rs f.rm)) s

/-- BIC (R190, immediate operand). -/
def execBicImm (f : DpImmFields) (s : State) : Host.Outcome State Fault Refusal :=
  runHandler .dp f.cond (dataProcessing .bic f.s f.rn f.rd (.imm f.rot f.imm8)) s

/-- BIC (R190, register operand, immediate shift). -/
def execBicShift (f : DpShiftFields) (s : State) : Host.Outcome State Fault Refusal :=
  runHandler .dp f.cond (dataProcessing .bic f.s f.rn f.rd (.shift f.type f.shiftImm f.rm)) s

/-- BIC (R190, register operand, register shift). -/
def execBicReg (f : DpRegFields) (s : State) : Host.Outcome State Fault Refusal :=
  runHandler .dp f.cond (dataProcessing .bic f.s f.rn f.rd (.regShift f.type f.rs f.rm)) s

/-- MVN (R191, immediate operand). -/
def execMvnImm (f : DpImmFields) (s : State) : Host.Outcome State Fault Refusal :=
  runHandler .dp f.cond (dataProcessing .mvn f.s f.rn f.rd (.imm f.rot f.imm8)) s

/-- MVN (R191, register operand, immediate shift). -/
def execMvnShift (f : DpShiftFields) (s : State) : Host.Outcome State Fault Refusal :=
  runHandler .dp f.cond (dataProcessing .mvn f.s f.rn f.rd (.shift f.type f.shiftImm f.rm)) s

/-- MVN (R191, register operand, register shift). -/
def execMvnReg (f : DpRegFields) (s : State) : Host.Outcome State Fault Refusal :=
  runHandler .dp f.cond (dataProcessing .mvn f.s f.rn f.rd (.regShift f.type f.rs f.rm)) s

end Sys2Proof.Machine
end

