-- ==== Sys2Proof/Machine/SingleTransfer.lean ====
section
/-! DEFINITION. Single data transfer, word, byte, halfword and signed (44_single_transfer.md R220 to R242). -/

namespace Sys2Proof.Machine

/-- What a single transfer moves (R220). -/
inductive TransferKind where
  | word
  | ubyte
  | uhalf
  | sbyte
  | shalf
deriving DecidableEq, Repr

/-- The bus width of a kind (R221). -/
def TransferKind.width : TransferKind → Width
  | .word => .word
  | .ubyte => .byte
  | .uhalf => .half
  | .sbyte => .byte
  | .shalf => .half

/-- `Load(kind, a)` from the value the bus returned (R221, R229): zero or sign extension. -/
def TransferKind.extend (k : TransferKind) (v : Word) : Word :=
  match k with
  | .word => v
  | .ubyte => v
  | .uhalf => v
  | .sbyte => (v.setWidth 8).signExtend 32
  | .shalf => (v.setWidth 16).signExtend 32

/-- The halfword-class kinds a store may not have, SH = 10 and SH = 11 (R223). -/
def TransferKind.signed : TransferKind → Bool
  | .word => false
  | .ubyte => false
  | .uhalf => false
  | .sbyte => true
  | .shalf => true

/-- The operands of `ExecSingle` (R220). -/
structure Transfer where
  kind : TransferKind
  load : Bool
  p : Bool
  u : Bool
  w : Bool
  rn : RegIx
  rd : RegIx
  offset : Offset
deriving DecidableEq, Repr

/-- The base of a single transfer (R225): `IA + 8` for R15. -/
def State.transferBase (s : State) (rn : RegIx) : Word := if rn = 15 then s.ia + 8 else s.readReg rn

/-- The value a store of a register sends (R227, R265): `IA + 12` for R15. -/
def State.storeValue (s : State) (rd : RegIx) : Word := if rd = 15 then s.ia + 12 else s.readReg rd

/-- `ea`, R228. -/
def Transfer.ea (t : Transfer) (s : State) : Word :=
  if t.u = true then s.transferBase t.rn + t.offset.eval s else s.transferBase t.rn - t.offset.eval s

/-- The address of the access (R228): `ea` when pre-indexed, the base when post-indexed. -/
def Transfer.addr (t : Transfer) (s : State) : Word := if t.p = true then t.ea s else s.transferBase t.rn

/-- Whether the base is written back (R230). -/
def Transfer.writesBack (t : Transfer) : Bool := t.w || !t.p

/-- `ExecSingle`, R221: the two checks in their order (R224), the access, then the writeback. An access for which the bus
has no step (R67) ends it. -/
def singleTransfer (t : Transfer) (s : State) : HandlerResult :=
  if t.w = true ∧ t.rn = t.rd then .error .illegalInstruction
  else if t.load = false ∧ t.kind.signed = true then .error .fatalMisuse
  else if s.launch.stuckAt t.kind.width (t.addr s) = true then .stuck
  else
    let ea := t.ea s
    let addr := t.addr s
    let s1 :=
      if t.load = true then
        ((s.afterRead t.kind.width addr).writeReg t.rd (t.kind.extend (s.busReadValue t.kind.width addr))).chargeCycle
      else s.busWrite t.kind.width addr (s.storeValue t.rd)
    let s2 := if t.writesBack = true then s1.writeReg t.rn ea else s1
    HandlerResult.flushIf ((t.load && t.rd == 15) || (t.writesBack && t.rn == 15)) s2

/-- A pre-indexed word or byte transfer with an immediate offset (R81, R242). -/
def transferImmPre (f : ImmPreFields) (kind : TransferKind) (load : Bool) : Transfer :=
  { kind := kind, load := load, p := true, u := f.u, w := f.w, rn := f.rn, rd := f.rd, offset := .imm12 f.imm12 }

/-- A post-indexed word or byte transfer with an immediate offset; `w` distinguishes the T forms (R234, R242). -/
def transferImmPost (f : ImmPostFields) (kind : TransferKind) (load w : Bool) : Transfer :=
  { kind := kind, load := load, p := false, u := f.u, w := w, rn := f.rn, rd := f.rd, offset := .imm12 f.imm12 }

/-- A pre-indexed word or byte transfer with a register offset (R81, R242). -/
def transferRegPre (f : RegPreFields) (kind : TransferKind) (load : Bool) : Transfer :=
  { kind := kind, load := load, p := true, u := f.u, w := f.w, rn := f.rn, rd := f.rd
    offset := .shifted f.type f.shiftImm f.rm }

/-- A post-indexed word or byte transfer with a register offset; `w` distinguishes the T forms (R234, R242). -/
def transferRegPost (f : RegPostFields) (kind : TransferKind) (load w : Bool) : Transfer :=
  { kind := kind, load := load, p := false, u := f.u, w := w, rn := f.rn, rd := f.rd
    offset := .shifted f.type f.shiftImm f.rm }

/-- A halfword or signed transfer with an immediate offset (R82). -/
def transferHsImm (f : HsImmFields) (kind : TransferKind) (load : Bool) : Transfer :=
  { kind := kind, load := load, p := f.p, u := f.u, w := f.w, rn := f.rn, rd := f.rd, offset := .imm4 f.imm4H f.imm4L }

/-- A halfword or signed transfer with a register offset (R82). -/
def transferHsReg (f : HsRegFields) (kind : TransferKind) (load : Bool) : Transfer :=
  { kind := kind, load := load, p := f.p, u := f.u, w := f.w, rn := f.rn, rd := f.rd, offset := .reg f.rm }

/-- LDR (R232, pre-indexed, immediate offset). -/
def execLdrImmPre (f : ImmPreFields) (s : State) : Host.Outcome State Fault Refusal :=
  runHandler .ldrStr f.cond (singleTransfer (transferImmPre f .word true)) s

/-- LDR (R232, post-indexed, immediate offset). -/
def execLdrImmPost (f : ImmPostFields) (s : State) : Host.Outcome State Fault Refusal :=
  runHandler .ldrStr f.cond (singleTransfer (transferImmPost f .word true false)) s

/-- LDRT (R234, post-indexed with W = 1, immediate offset). -/
def execLdrtImm (f : ImmPostFields) (s : State) : Host.Outcome State Fault Refusal :=
  runHandler .ldrStr f.cond (singleTransfer (transferImmPost f .word true true)) s

/-- STR (R233, pre-indexed, immediate offset). -/
def execStrImmPre (f : ImmPreFields) (s : State) : Host.Outcome State Fault Refusal :=
  runHandler .ldrStr f.cond (singleTransfer (transferImmPre f .word false)) s

/-- STR (R233, post-indexed, immediate offset). -/
def execStrImmPost (f : ImmPostFields) (s : State) : Host.Outcome State Fault Refusal :=
  runHandler .ldrStr f.cond (singleTransfer (transferImmPost f .word false false)) s

/-- STRT (R234, post-indexed with W = 1, immediate offset). -/
def execStrtImm (f : ImmPostFields) (s : State) : Host.Outcome State Fault Refusal :=
  runHandler .ldrStr f.cond (singleTransfer (transferImmPost f .word false true)) s

/-- LDRB (R235, pre-indexed, immediate offset). -/
def execLdrbImmPre (f : ImmPreFields) (s : State) : Host.Outcome State Fault Refusal :=
  runHandler .ldrStr f.cond (singleTransfer (transferImmPre f .ubyte true)) s

/-- LDRB (R235, post-indexed, immediate offset). -/
def execLdrbImmPost (f : ImmPostFields) (s : State) : Host.Outcome State Fault Refusal :=
  runHandler .ldrStr f.cond (singleTransfer (transferImmPost f .ubyte true false)) s

/-- LDRBT (R234, post-indexed with W = 1, immediate offset). -/
def execLdrbtImm (f : ImmPostFields) (s : State) : Host.Outcome State Fault Refusal :=
  runHandler .ldrStr f.cond (singleTransfer (transferImmPost f .ubyte true true)) s

/-- STRB (R236, pre-indexed, immediate offset). -/
def execStrbImmPre (f : ImmPreFields) (s : State) : Host.Outcome State Fault Refusal :=
  runHandler .ldrStr f.cond (singleTransfer (transferImmPre f .ubyte false)) s

/-- STRB (R236, post-indexed, immediate offset). -/
def execStrbImmPost (f : ImmPostFields) (s : State) : Host.Outcome State Fault Refusal :=
  runHandler .ldrStr f.cond (singleTransfer (transferImmPost f .ubyte false false)) s

/-- STRBT (R234, post-indexed with W = 1, immediate offset). -/
def execStrbtImm (f : ImmPostFields) (s : State) : Host.Outcome State Fault Refusal :=
  runHandler .ldrStr f.cond (singleTransfer (transferImmPost f .ubyte false true)) s

/-- LDR (R232, pre-indexed, register offset). -/
def execLdrRegPre (f : RegPreFields) (s : State) : Host.Outcome State Fault Refusal :=
  runHandler .ldrStr f.cond (singleTransfer (transferRegPre f .word true)) s

/-- LDR (R232, post-indexed, register offset). -/
def execLdrRegPost (f : RegPostFields) (s : State) : Host.Outcome State Fault Refusal :=
  runHandler .ldrStr f.cond (singleTransfer (transferRegPost f .word true false)) s

/-- LDRT (R234, post-indexed with W = 1, register offset). -/
def execLdrtReg (f : RegPostFields) (s : State) : Host.Outcome State Fault Refusal :=
  runHandler .ldrStr f.cond (singleTransfer (transferRegPost f .word true true)) s

/-- STR (R233, pre-indexed, register offset). -/
def execStrRegPre (f : RegPreFields) (s : State) : Host.Outcome State Fault Refusal :=
  runHandler .ldrStr f.cond (singleTransfer (transferRegPre f .word false)) s

/-- STR (R233, post-indexed, register offset). -/
def execStrRegPost (f : RegPostFields) (s : State) : Host.Outcome State Fault Refusal :=
  runHandler .ldrStr f.cond (singleTransfer (transferRegPost f .word false false)) s

/-- STRT (R234, post-indexed with W = 1, register offset). -/
def execStrtReg (f : RegPostFields) (s : State) : Host.Outcome State Fault Refusal :=
  runHandler .ldrStr f.cond (singleTransfer (transferRegPost f .word false true)) s

/-- LDRB (R235, pre-indexed, register offset). -/
def execLdrbRegPre (f : RegPreFields) (s : State) : Host.Outcome State Fault Refusal :=
  runHandler .ldrStr f.cond (singleTransfer (transferRegPre f .ubyte true)) s

/-- LDRB (R235, post-indexed, register offset). -/
def execLdrbRegPost (f : RegPostFields) (s : State) : Host.Outcome State Fault Refusal :=
  runHandler .ldrStr f.cond (singleTransfer (transferRegPost f .ubyte true false)) s

/-- LDRBT (R234, post-indexed with W = 1, register offset). -/
def execLdrbtReg (f : RegPostFields) (s : State) : Host.Outcome State Fault Refusal :=
  runHandler .ldrStr f.cond (singleTransfer (transferRegPost f .ubyte true true)) s

/-- STRB (R236, pre-indexed, register offset). -/
def execStrbRegPre (f : RegPreFields) (s : State) : Host.Outcome State Fault Refusal :=
  runHandler .ldrStr f.cond (singleTransfer (transferRegPre f .ubyte false)) s

/-- STRB (R236, post-indexed, register offset). -/
def execStrbRegPost (f : RegPostFields) (s : State) : Host.Outcome State Fault Refusal :=
  runHandler .ldrStr f.cond (singleTransfer (transferRegPost f .ubyte false false)) s

/-- STRBT (R234, post-indexed with W = 1, register offset). -/
def execStrbtReg (f : RegPostFields) (s : State) : Host.Outcome State Fault Refusal :=
  runHandler .ldrStr f.cond (singleTransfer (transferRegPost f .ubyte false true)) s

/-- LDRH (R237, immediate offset). -/
def execLdrhImm (f : HsImmFields) (s : State) : Host.Outcome State Fault Refusal :=
  runHandler .ldrStrHsImm f.cond (singleTransfer (transferHsImm f .uhalf true)) s

/-- STRH (R238, immediate offset). -/
def execStrhImm (f : HsImmFields) (s : State) : Host.Outcome State Fault Refusal :=
  runHandler .ldrStrHsImm f.cond (singleTransfer (transferHsImm f .uhalf false)) s

/-- LDRSB (R239, immediate offset). -/
def execLdrsbImm (f : HsImmFields) (s : State) : Host.Outcome State Fault Refusal :=
  runHandler .ldrStrHsImm f.cond (singleTransfer (transferHsImm f .sbyte true)) s

/-- LDRSH (R240, immediate offset). -/
def execLdrshImm (f : HsImmFields) (s : State) : Host.Outcome State Fault Refusal :=
  runHandler .ldrStrHsImm f.cond (singleTransfer (transferHsImm f .shalf true)) s

/-- STRSB (R223 and R241: a store with SH = 10, immediate offset). -/
def execStrsbImm (f : HsImmFields) (s : State) : Host.Outcome State Fault Refusal :=
  runHandler .ldrStrHsImm f.cond (singleTransfer (transferHsImm f .sbyte false)) s

/-- STRSH (R223 and R241: a store with SH = 11, immediate offset). -/
def execStrshImm (f : HsImmFields) (s : State) : Host.Outcome State Fault Refusal :=
  runHandler .ldrStrHsImm f.cond (singleTransfer (transferHsImm f .shalf false)) s

/-- LDRH (R237, register offset). -/
def execLdrhReg (f : HsRegFields) (s : State) : Host.Outcome State Fault Refusal :=
  runHandler .ldrStrHsReg f.cond (singleTransfer (transferHsReg f .uhalf true)) s

/-- STRH (R238, register offset). -/
def execStrhReg (f : HsRegFields) (s : State) : Host.Outcome State Fault Refusal :=
  runHandler .ldrStrHsReg f.cond (singleTransfer (transferHsReg f .uhalf false)) s

/-- LDRSB (R239, register offset). -/
def execLdrsbReg (f : HsRegFields) (s : State) : Host.Outcome State Fault Refusal :=
  runHandler .ldrStrHsReg f.cond (singleTransfer (transferHsReg f .sbyte true)) s

/-- LDRSH (R240, register offset). -/
def execLdrshReg (f : HsRegFields) (s : State) : Host.Outcome State Fault Refusal :=
  runHandler .ldrStrHsReg f.cond (singleTransfer (transferHsReg f .shalf true)) s

/-- STRSB (R223 and R241: a store with SH = 10, register offset). -/
def execStrsbReg (f : HsRegFields) (s : State) : Host.Outcome State Fault Refusal :=
  runHandler .ldrStrHsReg f.cond (singleTransfer (transferHsReg f .sbyte false)) s

/-- STRSH (R223 and R241: a store with SH = 11, register offset). -/
def execStrshReg (f : HsRegFields) (s : State) : Host.Outcome State Fault Refusal :=
  runHandler .ldrStrHsReg f.cond (singleTransfer (transferHsReg f .shalf false)) s

end Sys2Proof.Machine
end

