-- ==== Sys2Proof/Machine/System.lean ====
section
/-! DEFINITION. Software interrupt and status-register transfer (42_swi_msr.md R140 to R145). -/

namespace Sys2Proof.Machine

/-- SWI, R140 and R305: the exception entry with the link value `IA + 4`, and a flush. The comment field is not read. -/
def swiHandler (s : State) : HandlerResult := .flush (s.enterException .swi (s.ia + 4))

/-- `MSR_SPSR(v)`, R144: all 32 bits into the current mode's SPSR; a misuse in usr and sys, which have none. -/
def msrSpsrHandler (rm : RegIx) (s : State) : HandlerResult :=
  let v := s.readReg rm
  match s.spsrCur with
  | none => .error .fatalMisuse
  | some _ => .advance { s with spsr := s.spsr.set s.cpsr.mode v }

/-- The CPSR with its four flags from bits 31:28 of an image (R142). -/
def Psr.withFlagsOf (p : Psr) (v : Word) : Psr :=
  { p with n := v.getLsbD 31, z := v.getLsbD 30, c := v.getLsbD 29, v := v.getLsbD 28 }

/-- `MSR_CPSR(v)`, R145: the whole image; a misuse when its mode field is invalid; only the flags in usr when
`MSR_USER_RESTRICT` is set (R142). -/
def msrCpsrHandler (rm : RegIx) (s : State) : HandlerResult :=
  let v := s.readReg rm
  if s.launch.msrUserRestrict = true ∧ s.cpsr.mode = .usr then .advance { s with cpsr := s.cpsr.withFlagsOf v }
  else
    match Psr.ofWord v with
    | none => .error .fatalMisuse
    | some p => .advance { s with cpsr := p }

/-- SWI (R140). -/
def execSwi (f : SwiFields) (s : State) : Host.Outcome State Fault Refusal :=
  runHandler .swi f.cond (swiHandler) s

/-- MSR (R145). -/
def execMsrCpsr (f : MsrRegFields) (s : State) : Host.Outcome State Fault Refusal :=
  runHandler .msrReg f.cond (msrCpsrHandler f.rm) s

/-- MSR (R144). -/
def execMsrSpsr (f : MsrRegFields) (s : State) : Host.Outcome State Fault Refusal :=
  runHandler .msrReg f.cond (msrSpsrHandler f.rm) s

end Sys2Proof.Machine
end

