-- ==== Sys2Proof/Machine/Unimplemented.lean ====
section
/-! DEFINITION. The classes without a handler (46_unimplemented.md R290 to R298). -/

namespace Sys2Proof.Machine

/-- R290: a class without a handler raises `UnimplementedClass` and does nothing else. -/
def unimplemented (_ : State) : HandlerResult := .error .unimplementedClass

/-- CDP (R295). -/
def execCdp (f : CdpFields) (s : State) : Host.Outcome State Fault Refusal :=
  runHandler .coproc f.cond (unimplemented) s

/-- MRC (R295). -/
def execMrc (f : CopRegFields) (s : State) : Host.Outcome State Fault Refusal :=
  runHandler .coproc f.cond (unimplemented) s

/-- MCR (R295). -/
def execMcr (f : CopRegFields) (s : State) : Host.Outcome State Fault Refusal :=
  runHandler .coproc f.cond (unimplemented) s

/-- LDC (R295). -/
def execLdc (f : CopDataFields) (s : State) : Host.Outcome State Fault Refusal :=
  runHandler .coproc f.cond (unimplemented) s

/-- STC (R295). -/
def execStc (f : CopDataFields) (s : State) : Host.Outcome State Fault Refusal :=
  runHandler .coproc f.cond (unimplemented) s

/-- UNDEFINED (R296, line 7 of R72). -/
def execUndefSpace (f : UndefSpaceFields) (s : State) : Host.Outcome State Fault Refusal :=
  runHandler .undefined f.cond (unimplemented) s

/-- MUL (R291). -/
def execMul (f : MulFields) (s : State) : Host.Outcome State Fault Refusal :=
  runHandler .mulMla f.cond (unimplemented) s

/-- MLA (R291). -/
def execMla (f : MulFields) (s : State) : Host.Outcome State Fault Refusal :=
  runHandler .mulMla f.cond (unimplemented) s

/-- UMULL (R292). -/
def execUmull (f : MullFields) (s : State) : Host.Outcome State Fault Refusal :=
  runHandler .mullMlal f.cond (unimplemented) s

/-- UMLAL (R292). -/
def execUmlal (f : MullFields) (s : State) : Host.Outcome State Fault Refusal :=
  runHandler .mullMlal f.cond (unimplemented) s

/-- SMULL (R292). -/
def execSmull (f : MullFields) (s : State) : Host.Outcome State Fault Refusal :=
  runHandler .mullMlal f.cond (unimplemented) s

/-- SMLAL (R292). -/
def execSmlal (f : MullFields) (s : State) : Host.Outcome State Fault Refusal :=
  runHandler .mullMlal f.cond (unimplemented) s

/-- SWP (R292). -/
def execSwp (f : SwpFields) (s : State) : Host.Outcome State Fault Refusal :=
  runHandler .swp f.cond (unimplemented) s

/-- SWPB (R292). -/
def execSwpb (f : SwpFields) (s : State) : Host.Outcome State Fault Refusal :=
  runHandler .swp f.cond (unimplemented) s

/-- UNDEFINED (R296, line 9f of R72). -/
def execUndefMul (f : UndefMulFields) (s : State) : Host.Outcome State Fault Refusal :=
  runHandler .undefined f.cond (unimplemented) s

/-- MRS (R294). -/
def execMrs (f : MrsFields) (s : State) : Host.Outcome State Fault Refusal :=
  runHandler .mrs f.cond (unimplemented) s

/-- MSR (R293). -/
def execMsrFlags (f : MsrFlagsFields) (s : State) : Host.Outcome State Fault Refusal :=
  runHandler .msrFlags f.cond (unimplemented) s

/-- UNDEFINED (R296, line 13 of R72). -/
def execUndefPsr (f : UndefPsrFields) (s : State) : Host.Outcome State Fault Refusal :=
  runHandler .undefined f.cond (unimplemented) s

end Sys2Proof.Machine
end

