-- ==== Sys2Proof/Machine/Dispatch.lean ====
section
/-! DEFINITION. `Execute` (40_dispatch.md R100, R104): one arm per constructor of `Instr`. -/

namespace Sys2Proof.Machine

def exec (i : Instr) (s : State) : Host.Outcome State Fault Refusal :=
  match i with
  | .bx f => Sys2Proof.Machine.execBx f s
  | .b f => Sys2Proof.Machine.execB f s
  | .bl f => Sys2Proof.Machine.execBl f s
  | .swi f => Sys2Proof.Machine.execSwi f s
  | .cdp f => Sys2Proof.Machine.execCdp f s
  | .mrc f => Sys2Proof.Machine.execMrc f s
  | .mcr f => Sys2Proof.Machine.execMcr f s
  | .ldc f => Sys2Proof.Machine.execLdc f s
  | .stc f => Sys2Proof.Machine.execStc f s
  | .ldmia f => Sys2Proof.Machine.execLdmia f s
  | .ldmib f => Sys2Proof.Machine.execLdmib f s
  | .ldmda f => Sys2Proof.Machine.execLdmda f s
  | .ldmdb f => Sys2Proof.Machine.execLdmdb f s
  | .stmia f => Sys2Proof.Machine.execStmia f s
  | .stmib f => Sys2Proof.Machine.execStmib f s
  | .stmda f => Sys2Proof.Machine.execStmda f s
  | .stmdb f => Sys2Proof.Machine.execStmdb f s
  | .ldmiaUser f => Sys2Proof.Machine.execLdmiaUser f s
  | .ldmibUser f => Sys2Proof.Machine.execLdmibUser f s
  | .ldmdaUser f => Sys2Proof.Machine.execLdmdaUser f s
  | .ldmdbUser f => Sys2Proof.Machine.execLdmdbUser f s
  | .stmiaUser f => Sys2Proof.Machine.execStmiaUser f s
  | .stmibUser f => Sys2Proof.Machine.execStmibUser f s
  | .stmdaUser f => Sys2Proof.Machine.execStmdaUser f s
  | .stmdbUser f => Sys2Proof.Machine.execStmdbUser f s
  | .undefSpace f => Sys2Proof.Machine.execUndefSpace f s
  | .ldrImmPre f => Sys2Proof.Machine.execLdrImmPre f s
  | .ldrImmPost f => Sys2Proof.Machine.execLdrImmPost f s
  | .ldrtImm f => Sys2Proof.Machine.execLdrtImm f s
  | .strImmPre f => Sys2Proof.Machine.execStrImmPre f s
  | .strImmPost f => Sys2Proof.Machine.execStrImmPost f s
  | .strtImm f => Sys2Proof.Machine.execStrtImm f s
  | .ldrbImmPre f => Sys2Proof.Machine.execLdrbImmPre f s
  | .ldrbImmPost f => Sys2Proof.Machine.execLdrbImmPost f s
  | .ldrbtImm f => Sys2Proof.Machine.execLdrbtImm f s
  | .strbImmPre f => Sys2Proof.Machine.execStrbImmPre f s
  | .strbImmPost f => Sys2Proof.Machine.execStrbImmPost f s
  | .strbtImm f => Sys2Proof.Machine.execStrbtImm f s
  | .ldrRegPre f => Sys2Proof.Machine.execLdrRegPre f s
  | .ldrRegPost f => Sys2Proof.Machine.execLdrRegPost f s
  | .ldrtReg f => Sys2Proof.Machine.execLdrtReg f s
  | .strRegPre f => Sys2Proof.Machine.execStrRegPre f s
  | .strRegPost f => Sys2Proof.Machine.execStrRegPost f s
  | .strtReg f => Sys2Proof.Machine.execStrtReg f s
  | .ldrbRegPre f => Sys2Proof.Machine.execLdrbRegPre f s
  | .ldrbRegPost f => Sys2Proof.Machine.execLdrbRegPost f s
  | .ldrbtReg f => Sys2Proof.Machine.execLdrbtReg f s
  | .strbRegPre f => Sys2Proof.Machine.execStrbRegPre f s
  | .strbRegPost f => Sys2Proof.Machine.execStrbRegPost f s
  | .strbtReg f => Sys2Proof.Machine.execStrbtReg f s
  | .mul f => Sys2Proof.Machine.execMul f s
  | .mla f => Sys2Proof.Machine.execMla f s
  | .umull f => Sys2Proof.Machine.execUmull f s
  | .umlal f => Sys2Proof.Machine.execUmlal f s
  | .smull f => Sys2Proof.Machine.execSmull f s
  | .smlal f => Sys2Proof.Machine.execSmlal f s
  | .swp f => Sys2Proof.Machine.execSwp f s
  | .swpb f => Sys2Proof.Machine.execSwpb f s
  | .ldrhImm f => Sys2Proof.Machine.execLdrhImm f s
  | .strhImm f => Sys2Proof.Machine.execStrhImm f s
  | .ldrsbImm f => Sys2Proof.Machine.execLdrsbImm f s
  | .ldrshImm f => Sys2Proof.Machine.execLdrshImm f s
  | .strsbImm f => Sys2Proof.Machine.execStrsbImm f s
  | .strshImm f => Sys2Proof.Machine.execStrshImm f s
  | .ldrhReg f => Sys2Proof.Machine.execLdrhReg f s
  | .strhReg f => Sys2Proof.Machine.execStrhReg f s
  | .ldrsbReg f => Sys2Proof.Machine.execLdrsbReg f s
  | .ldrshReg f => Sys2Proof.Machine.execLdrshReg f s
  | .strsbReg f => Sys2Proof.Machine.execStrsbReg f s
  | .strshReg f => Sys2Proof.Machine.execStrshReg f s
  | .undefMul f => Sys2Proof.Machine.execUndefMul f s
  | .mrs f => Sys2Proof.Machine.execMrs f s
  | .msrCpsr f => Sys2Proof.Machine.execMsrCpsr f s
  | .msrSpsr f => Sys2Proof.Machine.execMsrSpsr f s
  | .msrFlags f => Sys2Proof.Machine.execMsrFlags f s
  | .undefPsr f => Sys2Proof.Machine.execUndefPsr f s
  | .andImm f => Sys2Proof.Machine.execAndImm f s
  | .andShift f => Sys2Proof.Machine.execAndShift f s
  | .andReg f => Sys2Proof.Machine.execAndReg f s
  | .eorImm f => Sys2Proof.Machine.execEorImm f s
  | .eorShift f => Sys2Proof.Machine.execEorShift f s
  | .eorReg f => Sys2Proof.Machine.execEorReg f s
  | .subImm f => Sys2Proof.Machine.execSubImm f s
  | .subShift f => Sys2Proof.Machine.execSubShift f s
  | .subReg f => Sys2Proof.Machine.execSubReg f s
  | .rsbImm f => Sys2Proof.Machine.execRsbImm f s
  | .rsbShift f => Sys2Proof.Machine.execRsbShift f s
  | .rsbReg f => Sys2Proof.Machine.execRsbReg f s
  | .addImm f => Sys2Proof.Machine.execAddImm f s
  | .addShift f => Sys2Proof.Machine.execAddShift f s
  | .addReg f => Sys2Proof.Machine.execAddReg f s
  | .adcImm f => Sys2Proof.Machine.execAdcImm f s
  | .adcShift f => Sys2Proof.Machine.execAdcShift f s
  | .adcReg f => Sys2Proof.Machine.execAdcReg f s
  | .sbcImm f => Sys2Proof.Machine.execSbcImm f s
  | .sbcShift f => Sys2Proof.Machine.execSbcShift f s
  | .sbcReg f => Sys2Proof.Machine.execSbcReg f s
  | .rscImm f => Sys2Proof.Machine.execRscImm f s
  | .rscShift f => Sys2Proof.Machine.execRscShift f s
  | .rscReg f => Sys2Proof.Machine.execRscReg f s
  | .tstImm f => Sys2Proof.Machine.execTstImm f s
  | .tstShift f => Sys2Proof.Machine.execTstShift f s
  | .tstReg f => Sys2Proof.Machine.execTstReg f s
  | .teqImm f => Sys2Proof.Machine.execTeqImm f s
  | .teqShift f => Sys2Proof.Machine.execTeqShift f s
  | .teqReg f => Sys2Proof.Machine.execTeqReg f s
  | .cmpImm f => Sys2Proof.Machine.execCmpImm f s
  | .cmpShift f => Sys2Proof.Machine.execCmpShift f s
  | .cmpReg f => Sys2Proof.Machine.execCmpReg f s
  | .cmnImm f => Sys2Proof.Machine.execCmnImm f s
  | .cmnShift f => Sys2Proof.Machine.execCmnShift f s
  | .cmnReg f => Sys2Proof.Machine.execCmnReg f s
  | .orrImm f => Sys2Proof.Machine.execOrrImm f s
  | .orrShift f => Sys2Proof.Machine.execOrrShift f s
  | .orrReg f => Sys2Proof.Machine.execOrrReg f s
  | .movImm f => Sys2Proof.Machine.execMovImm f s
  | .movShift f => Sys2Proof.Machine.execMovShift f s
  | .movReg f => Sys2Proof.Machine.execMovReg f s
  | .bicImm f => Sys2Proof.Machine.execBicImm f s
  | .bicShift f => Sys2Proof.Machine.execBicShift f s
  | .bicReg f => Sys2Proof.Machine.execBicReg f s
  | .mvnImm f => Sys2Proof.Machine.execMvnImm f s
  | .mvnShift f => Sys2Proof.Machine.execMvnShift f s
  | .mvnReg f => Sys2Proof.Machine.execMvnReg f s

end Sys2Proof.Machine
end

