-- ==== Sys2Proof/WellFormed.lean ====
section
/-! DEFINITION. Which terms of `Instr` a word can be. The fields' widths leave three constructors with a check to make:
the rows of the table that hold only the words no earlier line of R72 takes. -/

namespace Sys2Proof

/-- Line 9f of R72: the multiply-space word is neither a multiply (9a), a long multiply (9b) nor a swap (9c). `hi` is
bits 24:8. -/
def UndefMulFields.residue (f : UndefMulFields) : Bool :=
  !(f.hi.extractLsb 16 14 == 0b000#3) && !(f.hi.extractLsb 16 15 == 0b01#2) &&
    !(f.hi.extractLsb 16 15 == 0b10#2 && f.hi.extractLsb 13 12 == 0b00#2 && f.hi.extractLsb 3 0 == 0b0000#4)

/-- Line 12 of R72: with I = 0 and bits 7 and 4 set, line 9 takes the word first (the table's note). -/
def MsrFlagsFields.residue (f : MsrFlagsFields) : Bool :=
  !(!f.i && f.source12.getLsbD 7 && f.source12.getLsbD 4)

/-- Line 13 of R72: the word is not BX (line 1), of line 9, MRS (line 10), MSR_REG (line 11) or MSR_FLAGS (line 12).
`op` is bits 22:21 and `rest` bits 19:0. -/
def UndefPsrFields.residue (f : UndefPsrFields) : Bool :=
  !(!f.i && f.op == 0b01#2 && f.rest.extractLsb 19 4 == 0xFFF1#16) &&
    !(!f.i && f.rest.getLsbD 7 && f.rest.getLsbD 4) &&
    !(!f.i && !f.op.getLsbD 0 && f.rest.extractLsb 19 16 == 0b1111#4 && f.rest.extractLsb 11 0 == 0x000#12) &&
    !(!f.i && f.op.getLsbD 0 && f.rest.extractLsb 19 4 == 0x9F00#16) &&
    !(f.op.getLsbD 0 && f.rest.extractLsb 19 12 == 0x8F#8)

/-- The check a term of `Instr` must pass to be a word (R72, R95). -/
def Instr.WellFormed : Instr → Bool
  | .bx _ => true
  | .b _ => true
  | .bl _ => true
  | .swi _ => true
  | .cdp _ => true
  | .mrc _ => true
  | .mcr _ => true
  | .ldc _ => true
  | .stc _ => true
  | .ldmia _ => true
  | .ldmib _ => true
  | .ldmda _ => true
  | .ldmdb _ => true
  | .stmia _ => true
  | .stmib _ => true
  | .stmda _ => true
  | .stmdb _ => true
  | .ldmiaUser _ => true
  | .ldmibUser _ => true
  | .ldmdaUser _ => true
  | .ldmdbUser _ => true
  | .stmiaUser _ => true
  | .stmibUser _ => true
  | .stmdaUser _ => true
  | .stmdbUser _ => true
  | .undefSpace _ => true
  | .ldrImmPre _ => true
  | .ldrImmPost _ => true
  | .ldrtImm _ => true
  | .strImmPre _ => true
  | .strImmPost _ => true
  | .strtImm _ => true
  | .ldrbImmPre _ => true
  | .ldrbImmPost _ => true
  | .ldrbtImm _ => true
  | .strbImmPre _ => true
  | .strbImmPost _ => true
  | .strbtImm _ => true
  | .ldrRegPre _ => true
  | .ldrRegPost _ => true
  | .ldrtReg _ => true
  | .strRegPre _ => true
  | .strRegPost _ => true
  | .strtReg _ => true
  | .ldrbRegPre _ => true
  | .ldrbRegPost _ => true
  | .ldrbtReg _ => true
  | .strbRegPre _ => true
  | .strbRegPost _ => true
  | .strbtReg _ => true
  | .mul _ => true
  | .mla _ => true
  | .umull _ => true
  | .umlal _ => true
  | .smull _ => true
  | .smlal _ => true
  | .swp _ => true
  | .swpb _ => true
  | .ldrhImm _ => true
  | .strhImm _ => true
  | .ldrsbImm _ => true
  | .ldrshImm _ => true
  | .strsbImm _ => true
  | .strshImm _ => true
  | .ldrhReg _ => true
  | .strhReg _ => true
  | .ldrsbReg _ => true
  | .ldrshReg _ => true
  | .strsbReg _ => true
  | .strshReg _ => true
  | .undefMul f => f.residue
  | .mrs _ => true
  | .msrCpsr _ => true
  | .msrSpsr _ => true
  | .msrFlags f => f.residue
  | .undefPsr f => f.residue
  | .andImm _ => true
  | .andShift _ => true
  | .andReg _ => true
  | .eorImm _ => true
  | .eorShift _ => true
  | .eorReg _ => true
  | .subImm _ => true
  | .subShift _ => true
  | .subReg _ => true
  | .rsbImm _ => true
  | .rsbShift _ => true
  | .rsbReg _ => true
  | .addImm _ => true
  | .addShift _ => true
  | .addReg _ => true
  | .adcImm _ => true
  | .adcShift _ => true
  | .adcReg _ => true
  | .sbcImm _ => true
  | .sbcShift _ => true
  | .sbcReg _ => true
  | .rscImm _ => true
  | .rscShift _ => true
  | .rscReg _ => true
  | .tstImm _ => true
  | .tstShift _ => true
  | .tstReg _ => true
  | .teqImm _ => true
  | .teqShift _ => true
  | .teqReg _ => true
  | .cmpImm _ => true
  | .cmpShift _ => true
  | .cmpReg _ => true
  | .cmnImm _ => true
  | .cmnShift _ => true
  | .cmnReg _ => true
  | .orrImm _ => true
  | .orrShift _ => true
  | .orrReg _ => true
  | .movImm _ => true
  | .movShift _ => true
  | .movReg _ => true
  | .bicImm _ => true
  | .bicShift _ => true
  | .bicReg _ => true
  | .mvnImm _ => true
  | .mvnShift _ => true
  | .mvnReg _ => true

end Sys2Proof
end

