-- ==== Sys2Proof/Decode.lean ====
section
/-! DEFINITION. The decoder of 30_encoding.md (R70 to R86), total on every word, and after it the encoder, written from
the same formats. -/

namespace Sys2Proof

/-- `w[hi:lo]`, R7. -/
abbrev bits (w : Word) (hi lo : Nat) : BitVec (hi - lo + 1) := w.extractLsb hi lo

/-- `w[i]`, R7. -/
abbrev bit (w : Word) (i : Nat) : Bool := w.getLsbD i

/-! ### The fields every format shares -/

/-- The condition a 4-bit `cond` field names, R101. -/
def Cond.ofBits (b : BitVec 4) : Cond :=
  match b.toNat with
  | 0 => .eq | 1 => .ne | 2 => .cs | 3 => .cc | 4 => .mi | 5 => .pl | 6 => .vs | 7 => .vc
  | 8 => .hi | 9 => .ls | 10 => .ge | 11 => .lt | 12 => .gt | 13 => .le | 14 => .al | _ => .nv

/-- The shift a 2-bit `type` field names, R76. -/
def ShiftType.ofBits (b : BitVec 2) : ShiftType :=
  match b.toNat with
  | 0 => .lsl | 1 => .lsr | 2 => .asr | _ => .ror

/-- The operation a 4-bit `opcode` field names, R165. -/
def AluOp.ofBits (b : BitVec 4) : AluOp :=
  match b.toNat with
  | 0 => .and | 1 => .eor | 2 => .sub | 3 => .rsb | 4 => .add | 5 => .adc | 6 => .sbc | 7 => .rsc
  | 8 => .tst | 9 => .teq | 10 => .cmp | 11 => .cmn | 12 => .orr | 13 => .mov | 14 => .bic | _ => .mvn

/-! ### The decode procedure of R72 -/

/-- The lines of R72's procedure, each of which selects a class. -/
inductive DecodeLine where
  | l1 | l2 | l3 | l4 | l5 | l6 | l7 | l8 | l9a | l9b | l9c | l9d | l9e | l9f | l10 | l11 | l12 | l13 | l14
deriving DecidableEq, Repr

/-- R72: the first line that matches the word, which is the line of the first row of the table that matches it (R95). Bits
31:28 take no part. -/
def decodeLine (w : Word) : DecodeLine :=
  if w &&& 0x0FFFFFF0#32 = 0x012FFF10#32 then .l1
  else if bits w 27 25 = 0b101#3 then .l2
  else if bits w 27 24 = 0b1111#4 then .l3
  else if bits w 27 24 = 0b1110#4 then .l4
  else if bits w 27 25 = 0b110#3 then .l5
  else if bits w 27 25 = 0b100#3 then .l6
  else if bits w 27 25 = 0b011#3 ∧ bit w 4 = true then .l7
  else if bits w 27 26 = 0b01#2 then .l8
  else if bit w 25 = false ∧ bit w 7 = true ∧ bit w 4 = true then
    if w &&& 0x0FC000F0#32 = 0x00000090#32 then .l9a
    else if w &&& 0x0F8000F0#32 = 0x00800090#32 then .l9b
    else if w &&& 0x0FB00FF0#32 = 0x01000090#32 then .l9c
    else if bits w 6 5 ≠ 0b00#2 ∧ bit w 22 = true then .l9d
    else if bits w 6 5 ≠ 0b00#2 ∧ bit w 22 = false then .l9e
    else .l9f
  else if w &&& 0x0FBF0FFF#32 = 0x010F0000#32 then .l10
  else if w &&& 0x0FBFFFF0#32 = 0x0129F000#32 then .l11
  else if w &&& 0x0DBFF000#32 = 0x0128F000#32 then .l12
  else if w &&& 0x0D900000#32 = 0x01000000#32 then .l13
  else .l14

/-- The class each line of R72 gives. -/
def DecodeLine.cls : DecodeLine → InstrClass
  | .l1 => .bx
  | .l2 => .bBl
  | .l3 => .swi
  | .l4 => .coproc
  | .l5 => .coproc
  | .l6 => .ldmStm
  | .l7 => .undefined
  | .l8 => .ldrStr
  | .l9a => .mulMla
  | .l9b => .mullMlal
  | .l9c => .swp
  | .l9d => .ldrStrHsImm
  | .l9e => .ldrStrHsReg
  | .l9f => .undefined
  | .l10 => .mrs
  | .l11 => .msrReg
  | .l12 => .msrFlags
  | .l13 => .undefined
  | .l14 => .dp

/-- R72: the class of a word. -/
def decodeClass (w : Word) : InstrClass := (decodeLine w).cls

/-! ### One decoder per format -/

/-- Bits 31:28, R71. -/
def condOf (w : Word) : Cond := Cond.ofBits (bits w 31 28)

/-- R78. -/
def bxFields (w : Word) : BxFields :=
  { cond := condOf w, rn := bits w 3 0 }

/-- R77. -/
def branchFields (w : Word) : BranchFields :=
  { cond := condOf w, imm24 := bits w 23 0 }

/-- R79. -/
def swiFields (w : Word) : SwiFields :=
  { cond := condOf w, comment24 := bits w 23 0 }

/-- R84. -/
def cdpFields (w : Word) : CdpFields :=
  { cond := condOf w, op1 := bits w 23 20, crn := bits w 19 16, crd := bits w 15 12, cp := bits w 11 8,
    op2 := bits w 7 5, crm := bits w 3 0 }

/-- R84. -/
def copRegFields (w : Word) : CopRegFields :=
  { cond := condOf w, op1 := bits w 23 21, crn := bits w 19 16, rd := bits w 15 12, cp := bits w 11 8,
    op2 := bits w 7 5, crm := bits w 3 0 }

/-- R84. -/
def copDataFields (w : Word) : CopDataFields :=
  { cond := condOf w, p := bit w 24, u := bit w 23, n := bit w 22, w := bit w 21, rn := bits w 19 16,
    crd := bits w 15 12, cp := bits w 11 8, offset8 := bits w 7 0 }

/-- R83. -/
def blockFields (w : Word) : BlockFields :=
  { cond := condOf w, w := bit w 21, rn := bits w 19 16, list := bits w 15 0 }

/-- R296, line 7 of R72. -/
def undefSpaceFields (w : Word) : UndefSpaceFields :=
  { cond := condOf w, hi := bits w 24 5, lo := bits w 3 0 }

/-- R81. -/
def immPreFields (w : Word) : ImmPreFields :=
  { cond := condOf w, u := bit w 23, w := bit w 21, rn := bits w 19 16, rd := bits w 15 12, imm12 := bits w 11 0 }

/-- R81. -/
def immPostFields (w : Word) : ImmPostFields :=
  { cond := condOf w, u := bit w 23, rn := bits w 19 16, rd := bits w 15 12, imm12 := bits w 11 0 }

/-- R81. -/
def regPreFields (w : Word) : RegPreFields :=
  { cond := condOf w, u := bit w 23, w := bit w 21, rn := bits w 19 16, rd := bits w 15 12, shiftImm := bits w 11 7,
    type := ShiftType.ofBits (bits w 6 5), rm := bits w 3 0 }

/-- R81. -/
def regPostFields (w : Word) : RegPostFields :=
  { cond := condOf w, u := bit w 23, rn := bits w 19 16, rd := bits w 15 12, shiftImm := bits w 11 7,
    type := ShiftType.ofBits (bits w 6 5), rm := bits w 3 0 }

/-- R84. -/
def mulFields (w : Word) : MulFields :=
  { cond := condOf w, s := bit w 20, rd := bits w 19 16, rn := bits w 15 12, rs := bits w 11 8, rm := bits w 3 0 }

/-- R84. -/
def mullFields (w : Word) : MullFields :=
  { cond := condOf w, s := bit w 20, rdHi := bits w 19 16, rdLo := bits w 15 12, rs := bits w 11 8, rm := bits w 3 0 }

/-- R84. -/
def swpFields (w : Word) : SwpFields :=
  { cond := condOf w, rn := bits w 19 16, rd := bits w 15 12, rm := bits w 3 0 }

/-- R82. -/
def hsImmFields (w : Word) : HsImmFields :=
  { cond := condOf w, p := bit w 24, u := bit w 23, w := bit w 21, rn := bits w 19 16, rd := bits w 15 12,
    imm4H := bits w 11 8, imm4L := bits w 3 0 }

/-- R82 and R86. -/
def hsRegFields (w : Word) : HsRegFields :=
  { cond := condOf w, p := bit w 24, u := bit w 23, w := bit w 21, rn := bits w 19 16, rd := bits w 15 12,
    ignored := bits w 11 8, rm := bits w 3 0 }

/-- R296, line 9f of R72. -/
def undefMulFields (w : Word) : UndefMulFields :=
  { cond := condOf w, hi := bits w 24 8, lo := bits w 3 0 }

/-- R84. -/
def mrsFields (w : Word) : MrsFields :=
  { cond := condOf w, p := bit w 22, rd := bits w 15 12 }

/-- R80. -/
def msrRegFields (w : Word) : MsrRegFields :=
  { cond := condOf w, rm := bits w 3 0 }

/-- R84. -/
def msrFlagsFields (w : Word) : MsrFlagsFields :=
  { cond := condOf w, i := bit w 25, p := bit w 22, source12 := bits w 11 0 }

/-- R296, line 13 of R72. -/
def undefPsrFields (w : Word) : UndefPsrFields :=
  { cond := condOf w, i := bit w 25, op := bits w 22 21, rest := bits w 19 0 }

/-- R74 and R75. -/
def dpImmFields (w : Word) : DpImmFields :=
  { cond := condOf w, s := bit w 20, rn := bits w 19 16, rd := bits w 15 12, rot := bits w 11 8, imm8 := bits w 7 0 }

/-- R74 and R76. -/
def dpShiftFields (w : Word) : DpShiftFields :=
  { cond := condOf w, s := bit w 20, rn := bits w 19 16, rd := bits w 15 12, shiftImm := bits w 11 7,
    type := ShiftType.ofBits (bits w 6 5), rm := bits w 3 0 }

/-- R74 and R76. -/
def dpRegFields (w : Word) : DpRegFields :=
  { cond := condOf w, s := bit w 20, rn := bits w 19 16, rd := bits w 15 12, rs := bits w 11 8,
    type := ShiftType.ofBits (bits w 6 5), rm := bits w 3 0 }

/-! ### The forms of a data-processing operation, R165 -/

/-- A comparison's fields: the same without S, which is 1 in every word of these opcodes (R72). -/
def DpImmFields.toCmp (f : DpImmFields) : CmpImmFields :=
  { cond := f.cond, rn := f.rn, rd := f.rd, rot := f.rot, imm8 := f.imm8 }

/-- As `DpImmFields.toCmp`, immediate shift. -/
def DpShiftFields.toCmp (f : DpShiftFields) : CmpShiftFields :=
  { cond := f.cond, rn := f.rn, rd := f.rd, shiftImm := f.shiftImm, type := f.type, rm := f.rm }

/-- As `DpImmFields.toCmp`, register shift. -/
def DpRegFields.toCmp (f : DpRegFields) : CmpRegFields :=
  { cond := f.cond, rn := f.rn, rd := f.rd, rs := f.rs, type := f.type, rm := f.rm }

/-- The instruction of an opcode (R165) in its immediate form. -/
def Instr.dpImm (op : AluOp) (f : DpImmFields) : Instr :=
  match op with
  | .and => .andImm f
  | .eor => .eorImm f
  | .sub => .subImm f
  | .rsb => .rsbImm f
  | .add => .addImm f
  | .adc => .adcImm f
  | .sbc => .sbcImm f
  | .rsc => .rscImm f
  | .tst => .tstImm f.toCmp
  | .teq => .teqImm f.toCmp
  | .cmp => .cmpImm f.toCmp
  | .cmn => .cmnImm f.toCmp
  | .orr => .orrImm f
  | .mov => .movImm f
  | .bic => .bicImm f
  | .mvn => .mvnImm f

/-- The instruction of an opcode (R165) in its immediate-shift form. -/
def Instr.dpShift (op : AluOp) (f : DpShiftFields) : Instr :=
  match op with
  | .and => .andShift f
  | .eor => .eorShift f
  | .sub => .subShift f
  | .rsb => .rsbShift f
  | .add => .addShift f
  | .adc => .adcShift f
  | .sbc => .sbcShift f
  | .rsc => .rscShift f
  | .tst => .tstShift f.toCmp
  | .teq => .teqShift f.toCmp
  | .cmp => .cmpShift f.toCmp
  | .cmn => .cmnShift f.toCmp
  | .orr => .orrShift f
  | .mov => .movShift f
  | .bic => .bicShift f
  | .mvn => .mvnShift f

/-- The instruction of an opcode (R165) in its register-shift form. -/
def Instr.dpReg (op : AluOp) (f : DpRegFields) : Instr :=
  match op with
  | .and => .andReg f
  | .eor => .eorReg f
  | .sub => .subReg f
  | .rsb => .rsbReg f
  | .add => .addReg f
  | .adc => .adcReg f
  | .sbc => .sbcReg f
  | .rsc => .rscReg f
  | .tst => .tstReg f.toCmp
  | .teq => .teqReg f.toCmp
  | .cmp => .cmpReg f.toCmp
  | .cmn => .cmnReg f.toCmp
  | .orr => .orrReg f
  | .mov => .movReg f
  | .bic => .bicReg f
  | .mvn => .mvnReg f

/-! ### The decoder of a class: which row of the table the word is -/

/-- Lines 4 of R72: CDP, MRC or MCR by bits 4 and 20 (R84). -/
def decodeCoproc (w : Word) : Instr :=
  if bit w 4 = false then .cdp (cdpFields w)
  else if bit w 20 = true then .mrc (copRegFields w)
  else .mcr (copRegFields w)

/-- Line 6 of R72: the sixteen rows by L, S, P and U (R83). -/
def decodeBlock (w : Word) : Instr :=
  match bit w 20, bit w 22, bit w 24, bit w 23 with
  | true, false, false, true => .ldmia (blockFields w)
  | true, false, true, true => .ldmib (blockFields w)
  | true, false, false, false => .ldmda (blockFields w)
  | true, false, true, false => .ldmdb (blockFields w)
  | false, false, false, true => .stmia (blockFields w)
  | false, false, true, true => .stmib (blockFields w)
  | false, false, false, false => .stmda (blockFields w)
  | false, false, true, false => .stmdb (blockFields w)
  | true, true, false, true => .ldmiaUser (blockFields w)
  | true, true, true, true => .ldmibUser (blockFields w)
  | true, true, false, false => .ldmdaUser (blockFields w)
  | true, true, true, false => .ldmdbUser (blockFields w)
  | false, true, false, true => .stmiaUser (blockFields w)
  | false, true, true, true => .stmibUser (blockFields w)
  | false, true, false, false => .stmdaUser (blockFields w)
  | false, true, true, false => .stmdbUser (blockFields w)

/-- Line 8 of R72, immediate offset: the rows by P, W, L and B (R81, R242). -/
def decodeSingleImm (w : Word) : Instr :=
  match bit w 24, bit w 21, bit w 20, bit w 22 with
  | true, _, true, false => .ldrImmPre (immPreFields w)
  | true, _, false, false => .strImmPre (immPreFields w)
  | true, _, true, true => .ldrbImmPre (immPreFields w)
  | true, _, false, true => .strbImmPre (immPreFields w)
  | false, false, true, false => .ldrImmPost (immPostFields w)
  | false, false, false, false => .strImmPost (immPostFields w)
  | false, false, true, true => .ldrbImmPost (immPostFields w)
  | false, false, false, true => .strbImmPost (immPostFields w)
  | false, true, true, false => .ldrtImm (immPostFields w)
  | false, true, false, false => .strtImm (immPostFields w)
  | false, true, true, true => .ldrbtImm (immPostFields w)
  | false, true, false, true => .strbtImm (immPostFields w)

/-- Line 8 of R72, register offset: the rows by P, W, L and B (R81, R242). -/
def decodeSingleReg (w : Word) : Instr :=
  match bit w 24, bit w 21, bit w 20, bit w 22 with
  | true, _, true, false => .ldrRegPre (regPreFields w)
  | true, _, false, false => .strRegPre (regPreFields w)
  | true, _, true, true => .ldrbRegPre (regPreFields w)
  | true, _, false, true => .strbRegPre (regPreFields w)
  | false, false, true, false => .ldrRegPost (regPostFields w)
  | false, false, false, false => .strRegPost (regPostFields w)
  | false, false, true, true => .ldrbRegPost (regPostFields w)
  | false, false, false, true => .strbRegPost (regPostFields w)
  | false, true, true, false => .ldrtReg (regPostFields w)
  | false, true, false, false => .strtReg (regPostFields w)
  | false, true, true, true => .ldrbtReg (regPostFields w)
  | false, true, false, true => .strbtReg (regPostFields w)

/-- Line 9a of R72: MUL or MLA by A (R84). -/
def decodeMul (w : Word) : Instr :=
  if bit w 21 = true then .mla (mulFields w) else .mul (mulFields w)

/-- Line 9b of R72: the long multiplies by bits 22 and 21 (the table's rows). -/
def decodeMull (w : Word) : Instr :=
  match bit w 22, bit w 21 with
  | false, false => .umull (mullFields w)
  | false, true => .umlal (mullFields w)
  | true, false => .smull (mullFields w)
  | true, true => .smlal (mullFields w)

/-- Line 9c of R72: SWP or SWPB by B (R84). -/
def decodeSwp (w : Word) : Instr :=
  if bit w 22 = true then .swpb (swpFields w) else .swp (swpFields w)

/-- Line 9d of R72: the halfword rows with an immediate offset, by L and SH (R82). -/
def decodeHsImm (w : Word) : Instr :=
  match bit w 20, bit w 6, bit w 5 with
  | true, false, _ => .ldrhImm (hsImmFields w)
  | true, true, false => .ldrsbImm (hsImmFields w)
  | true, true, true => .ldrshImm (hsImmFields w)
  | false, false, _ => .strhImm (hsImmFields w)
  | false, true, false => .strsbImm (hsImmFields w)
  | false, true, true => .strshImm (hsImmFields w)

/-- Line 9e of R72: the halfword rows with a register offset, by L and SH (R82). -/
def decodeHsReg (w : Word) : Instr :=
  match bit w 20, bit w 6, bit w 5 with
  | true, false, _ => .ldrhReg (hsRegFields w)
  | true, true, false => .ldrsbReg (hsRegFields w)
  | true, true, true => .ldrshReg (hsRegFields w)
  | false, false, _ => .strhReg (hsRegFields w)
  | false, true, false => .strsbReg (hsRegFields w)
  | false, true, true => .strshReg (hsRegFields w)

/-- Line 14 of R72: the operation by opcode, the form by I and bit 4 (R74, R76). -/
def decodeDp (w : Word) : Instr :=
  if bit w 25 = true then Instr.dpImm (AluOp.ofBits (bits w 24 21)) (dpImmFields w)
  else if bit w 4 = false then Instr.dpShift (AluOp.ofBits (bits w 24 21)) (dpShiftFields w)
  else Instr.dpReg (AluOp.ofBits (bits w 24 21)) (dpRegFields w)

/-- R72, R85 and R95: the instruction a word is, a term of the constructor of the first row that matches it. Total: every
word is one. -/
def decodeWord (w : Word) : Instr :=
  match decodeLine w with
  | .l1 => .bx (bxFields w)
  | .l2 => if bit w 24 = true then .bl (branchFields w) else .b (branchFields w)
  | .l3 => .swi (swiFields w)
  | .l4 => decodeCoproc w
  | .l5 => if bit w 20 = true then .ldc (copDataFields w) else .stc (copDataFields w)
  | .l6 => decodeBlock w
  | .l7 => .undefSpace (undefSpaceFields w)
  | .l8 => if bit w 25 = true then decodeSingleReg w else decodeSingleImm w
  | .l9a => decodeMul w
  | .l9b => decodeMull w
  | .l9c => decodeSwp w
  | .l9d => decodeHsImm w
  | .l9e => decodeHsReg w
  | .l9f => .undefMul (undefMulFields w)
  | .l10 => .mrs (mrsFields w)
  | .l11 => if bit w 22 = true then .msrSpsr (msrRegFields w) else .msrCpsr (msrRegFields w)
  | .l12 => .msrFlags (msrFlagsFields w)
  | .l13 => .undefPsr (undefPsrFields w)
  | .l14 => decodeDp w

/-! ### Bytes -/

/-- Why a list of bytes is no instruction: an ARM-state instruction is four bytes (R70). -/
inductive DecodeError where
  | truncated
deriving DecidableEq, Repr

/-- The word four bytes hold, the first at the lowest address: little-endian (R53, R70). -/
def wordOfBytes (b0 b1 b2 b3 : Byte) : Word := b3 ++ b2 ++ b1 ++ b0

/-- The instruction at the head of a list of bytes, with the bytes after it; fewer than four bytes are refused by
name. -/
def decode : List Byte → Except DecodeError (Instr × List Byte)
  | b0 :: b1 :: b2 :: b3 :: rest => .ok (decodeWord (wordOfBytes b0 b1 b2 b3), rest)
  | _ => .error .truncated

/-- The four bytes of a word in memory order: little-endian (R53). -/
def bytesOfWord (w : Word) : List Byte := [bits w 7 0, bits w 15 8, bits w 23 16, bits w 31 24]

/-- The instruction the decoder reads from the bits the opcode table numbers: `nbits` low bits of `w`, the rest of the
32-bit word zero, laid out in memory order. -/
def decodeTableWord (nbits w : Nat) : Option Instr :=
  match decode (bytesOfWord (BitVec.ofNat 32 (w % 2 ^ nbits))) with
  | .ok (i, _) => some i
  | .error _ => none

/-! ### The encoder, from the same formats -/

/-- The 4-bit `cond` field, R101. -/
def Cond.bits : Cond → BitVec 4
  | .eq => 0 | .ne => 1 | .cs => 2 | .cc => 3 | .mi => 4 | .pl => 5 | .vs => 6 | .vc => 7
  | .hi => 8 | .ls => 9 | .ge => 10 | .lt => 11 | .gt => 12 | .le => 13 | .al => 14 | .nv => 15

/-- The 2-bit `type` field, R76. -/
def ShiftType.bits : ShiftType → BitVec 2
  | .lsl => 0 | .lsr => 1 | .asr => 2 | .ror => 3

/-- The 4-bit `opcode` field, R165. -/
def AluOp.bits : AluOp → BitVec 4
  | .and => 0 | .eor => 1 | .sub => 2 | .rsb => 3 | .add => 4 | .adc => 5 | .sbc => 6 | .rsc => 7
  | .tst => 8 | .teq => 9 | .cmp => 10 | .cmn => 11 | .orr => 12 | .mov => 13 | .bic => 14 | .mvn => 15

/-- A one-bit field, R7. -/
abbrev flag (b : Bool) : BitVec 1 := BitVec.ofBool b

/-- `cond:101:L:imm24`, R77. -/
def encodeBranch (l : Bool) (f : BranchFields) : Word :=
  f.cond.bits ++ 0b101#3 ++ flag l ++ f.imm24

/-- `cond:1110:op1:L:CRn:Rd:cp:op2:1:CRm`, R84. -/
def encodeCopReg (l : Bool) (f : CopRegFields) : Word :=
  f.cond.bits ++ 0b1110#4 ++ f.op1 ++ flag l ++ f.crn ++ f.rd ++ f.cp ++ f.op2 ++ 0b1#1 ++ f.crm

/-- `cond:110:P:U:N:W:L:Rn:CRd:cp:offset8`, R84. -/
def encodeCopData (l : Bool) (f : CopDataFields) : Word :=
  f.cond.bits ++ 0b110#3 ++ flag f.p ++ flag f.u ++ flag f.n ++ flag f.w ++ flag l ++ f.rn ++ f.crd ++ f.cp ++ f.offset8

/-- `cond:100:P:U:S:W:L:Rn:list`, R83. -/
def encodeBlock (p u s l : Bool) (f : BlockFields) : Word :=
  f.cond.bits ++ 0b100#3 ++ flag p ++ flag u ++ flag s ++ flag f.w ++ flag l ++ f.rn ++ f.list

/-- `cond:010:1:U:B:W:L:Rn:Rd:imm12`, R81. -/
def encodeImmPre (b l : Bool) (f : ImmPreFields) : Word :=
  f.cond.bits ++ 0b0101#4 ++ flag f.u ++ flag b ++ flag f.w ++ flag l ++ f.rn ++ f.rd ++ f.imm12

/-- `cond:010:0:U:B:W:L:Rn:Rd:imm12`, R81. -/
def encodeImmPost (b w l : Bool) (f : ImmPostFields) : Word :=
  f.cond.bits ++ 0b0100#4 ++ flag f.u ++ flag b ++ flag w ++ flag l ++ f.rn ++ f.rd ++ f.imm12

/-- `cond:011:1:U:B:W:L:Rn:Rd:shift_imm:type:0:Rm`, R81. -/
def encodeRegPre (b l : Bool) (f : RegPreFields) : Word :=
  f.cond.bits ++ 0b0111#4 ++ flag f.u ++ flag b ++ flag f.w ++ flag l ++ f.rn ++ f.rd ++ f.shiftImm ++ f.type.bits ++
    0b0#1 ++ f.rm

/-- `cond:011:0:U:B:W:L:Rn:Rd:shift_imm:type:0:Rm`, R81. -/
def encodeRegPost (b w l : Bool) (f : RegPostFields) : Word :=
  f.cond.bits ++ 0b0110#4 ++ flag f.u ++ flag b ++ flag w ++ flag l ++ f.rn ++ f.rd ++ f.shiftImm ++ f.type.bits ++
    0b0#1 ++ f.rm

/-- `cond:000000:A:S:Rd:Rn:Rs:1001:Rm`, R84. -/
def encodeMul (a : Bool) (f : MulFields) : Word :=
  f.cond.bits ++ 0b000000#6 ++ flag a ++ flag f.s ++ f.rd ++ f.rn ++ f.rs ++ 0b1001#4 ++ f.rm

/-- `cond:00001:U:A:S:RdHi:RdLo:Rs:1001:Rm`, R84 (bit 22 as the table's rows have it: 0 is unsigned). -/
def encodeMull (u a : Bool) (f : MullFields) : Word :=
  f.cond.bits ++ 0b00001#5 ++ flag u ++ flag a ++ flag f.s ++ f.rdHi ++ f.rdLo ++ f.rs ++ 0b1001#4 ++ f.rm

/-- `cond:00010:B:00:Rn:Rd:0000:1001:Rm`, R84. -/
def encodeSwp (b : Bool) (f : SwpFields) : Word :=
  f.cond.bits ++ 0b00010#5 ++ flag b ++ 0b00#2 ++ f.rn ++ f.rd ++ 0b00001001#8 ++ f.rm

/-- `cond:000:P:U:1:W:L:Rn:Rd:imm4H:1:SH:1:imm4L`, R82. -/
def encodeHsImm (l : Bool) (sh : BitVec 2) (f : HsImmFields) : Word :=
  f.cond.bits ++ 0b000#3 ++ flag f.p ++ flag f.u ++ 0b1#1 ++ flag f.w ++ flag l ++ f.rn ++ f.rd ++ f.imm4H ++ 0b1#1 ++ sh ++
    0b1#1 ++ f.imm4L

/-- `cond:000:P:U:0:W:L:Rn:Rd:xxxx:1:SH:1:Rm`, R82. -/
def encodeHsReg (l : Bool) (sh : BitVec 2) (f : HsRegFields) : Word :=
  f.cond.bits ++ 0b000#3 ++ flag f.p ++ flag f.u ++ 0b0#1 ++ flag f.w ++ flag l ++ f.rn ++ f.rd ++ f.ignored ++ 0b1#1 ++ sh ++
    0b1#1 ++ f.rm

/-- `cond:00010:P:10:1001:1111:00000000:Rm`, R80. -/
def encodeMsrReg (p : Bool) (f : MsrRegFields) : Word :=
  f.cond.bits ++ 0b00010#5 ++ flag p ++ 0b101001111100000000#18 ++ f.rm

/-- `cond:00:1:opcode:S:Rn:Rd:rot:imm8`, R74 and R75. -/
def encodeDpImm (op : AluOp) (f : DpImmFields) : Word :=
  f.cond.bits ++ 0b001#3 ++ op.bits ++ flag f.s ++ f.rn ++ f.rd ++ f.rot ++ f.imm8

/-- `cond:00:0:opcode:S:Rn:Rd:shift_imm:type:0:Rm`, R74 and R76. -/
def encodeDpShift (op : AluOp) (f : DpShiftFields) : Word :=
  f.cond.bits ++ 0b000#3 ++ op.bits ++ flag f.s ++ f.rn ++ f.rd ++ f.shiftImm ++ f.type.bits ++ 0b0#1 ++ f.rm

/-- `cond:00:0:opcode:S:Rn:Rd:Rs:0:type:1:Rm`, R74 and R76. -/
def encodeDpReg (op : AluOp) (f : DpRegFields) : Word :=
  f.cond.bits ++ 0b000#3 ++ op.bits ++ flag f.s ++ f.rn ++ f.rd ++ f.rs ++ 0b0#1 ++ f.type.bits ++ 0b1#1 ++ f.rm

/-- A comparison as the format of all sixteen opcodes, with the S it always has (R72). -/
def CmpImmFields.toDp (f : CmpImmFields) : DpImmFields :=
  { cond := f.cond, s := true, rn := f.rn, rd := f.rd, rot := f.rot, imm8 := f.imm8 }

/-- As `CmpImmFields.toDp`, immediate shift. -/
def CmpShiftFields.toDp (f : CmpShiftFields) : DpShiftFields :=
  { cond := f.cond, s := true, rn := f.rn, rd := f.rd, shiftImm := f.shiftImm, type := f.type, rm := f.rm }

/-- As `CmpImmFields.toDp`, register shift. -/
def CmpRegFields.toDp (f : CmpRegFields) : DpRegFields :=
  { cond := f.cond, s := true, rn := f.rn, rd := f.rd, rs := f.rs, type := f.type, rm := f.rm }

/-- The word of an instruction, from the formats of R74 to R84. -/
def encode : Instr → Word
  | .bx f => f.cond.bits ++ 0b000100101111111111110001#24 ++ f.rn
  | .b f => encodeBranch false f
  | .bl f => encodeBranch true f
  | .swi f => f.cond.bits ++ 0b1111#4 ++ f.comment24
  | .cdp f => f.cond.bits ++ 0b1110#4 ++ f.op1 ++ f.crn ++ f.crd ++ f.cp ++ f.op2 ++ 0b0#1 ++ f.crm
  | .mrc f => encodeCopReg true f
  | .mcr f => encodeCopReg false f
  | .ldc f => encodeCopData true f
  | .stc f => encodeCopData false f
  | .ldmia f => encodeBlock false true false true f
  | .ldmib f => encodeBlock true true false true f
  | .ldmda f => encodeBlock false false false true f
  | .ldmdb f => encodeBlock true false false true f
  | .stmia f => encodeBlock false true false false f
  | .stmib f => encodeBlock true true false false f
  | .stmda f => encodeBlock false false false false f
  | .stmdb f => encodeBlock true false false false f
  | .ldmiaUser f => encodeBlock false true true true f
  | .ldmibUser f => encodeBlock true true true true f
  | .ldmdaUser f => encodeBlock false false true true f
  | .ldmdbUser f => encodeBlock true false true true f
  | .stmiaUser f => encodeBlock false true true false f
  | .stmibUser f => encodeBlock true true true false f
  | .stmdaUser f => encodeBlock false false true false f
  | .stmdbUser f => encodeBlock true false true false f
  | .undefSpace f => f.cond.bits ++ 0b011#3 ++ f.hi ++ 0b1#1 ++ f.lo
  | .ldrImmPre f => encodeImmPre false true f
  | .ldrImmPost f => encodeImmPost false false true f
  | .ldrtImm f => encodeImmPost false true true f
  | .strImmPre f => encodeImmPre false false f
  | .strImmPost f => encodeImmPost false false false f
  | .strtImm f => encodeImmPost false true false f
  | .ldrbImmPre f => encodeImmPre true true f
  | .ldrbImmPost f => encodeImmPost true false true f
  | .ldrbtImm f => encodeImmPost true true true f
  | .strbImmPre f => encodeImmPre true false f
  | .strbImmPost f => encodeImmPost true false false f
  | .strbtImm f => encodeImmPost true true false f
  | .ldrRegPre f => encodeRegPre false true f
  | .ldrRegPost f => encodeRegPost false false true f
  | .ldrtReg f => encodeRegPost false true true f
  | .strRegPre f => encodeRegPre false false f
  | .strRegPost f => encodeRegPost false false false f
  | .strtReg f => encodeRegPost false true false f
  | .ldrbRegPre f => encodeRegPre true true f
  | .ldrbRegPost f => encodeRegPost true false true f
  | .ldrbtReg f => encodeRegPost true true true f
  | .strbRegPre f => encodeRegPre true false f
  | .strbRegPost f => encodeRegPost true false false f
  | .strbtReg f => encodeRegPost true true false f
  | .mul f => encodeMul false f
  | .mla f => encodeMul true f
  | .umull f => encodeMull false false f
  | .umlal f => encodeMull false true f
  | .smull f => encodeMull true false f
  | .smlal f => encodeMull true true f
  | .swp f => encodeSwp false f
  | .swpb f => encodeSwp true f
  | .ldrhImm f => encodeHsImm true 0b01#2 f
  | .strhImm f => encodeHsImm false 0b01#2 f
  | .ldrsbImm f => encodeHsImm true 0b10#2 f
  | .ldrshImm f => encodeHsImm true 0b11#2 f
  | .strsbImm f => encodeHsImm false 0b10#2 f
  | .strshImm f => encodeHsImm false 0b11#2 f
  | .ldrhReg f => encodeHsReg true 0b01#2 f
  | .strhReg f => encodeHsReg false 0b01#2 f
  | .ldrsbReg f => encodeHsReg true 0b10#2 f
  | .ldrshReg f => encodeHsReg true 0b11#2 f
  | .strsbReg f => encodeHsReg false 0b10#2 f
  | .strshReg f => encodeHsReg false 0b11#2 f
  | .undefMul f => f.cond.bits ++ 0b000#3 ++ f.hi ++ 0b1001#4 ++ f.lo
  | .mrs f => f.cond.bits ++ 0b00010#5 ++ flag f.p ++ 0b001111#6 ++ f.rd ++ 0b000000000000#12
  | .msrCpsr f => encodeMsrReg false f
  | .msrSpsr f => encodeMsrReg true f
  | .msrFlags f => f.cond.bits ++ 0b00#2 ++ flag f.i ++ 0b10#2 ++ flag f.p ++ 0b1010001111#10 ++ f.source12
  | .undefPsr f => f.cond.bits ++ 0b00#2 ++ flag f.i ++ 0b10#2 ++ f.op ++ 0b0#1 ++ f.rest
  | .andImm f => encodeDpImm .and f
  | .andShift f => encodeDpShift .and f
  | .andReg f => encodeDpReg .and f
  | .eorImm f => encodeDpImm .eor f
  | .eorShift f => encodeDpShift .eor f
  | .eorReg f => encodeDpReg .eor f
  | .subImm f => encodeDpImm .sub f
  | .subShift f => encodeDpShift .sub f
  | .subReg f => encodeDpReg .sub f
  | .rsbImm f => encodeDpImm .rsb f
  | .rsbShift f => encodeDpShift .rsb f
  | .rsbReg f => encodeDpReg .rsb f
  | .addImm f => encodeDpImm .add f
  | .addShift f => encodeDpShift .add f
  | .addReg f => encodeDpReg .add f
  | .adcImm f => encodeDpImm .adc f
  | .adcShift f => encodeDpShift .adc f
  | .adcReg f => encodeDpReg .adc f
  | .sbcImm f => encodeDpImm .sbc f
  | .sbcShift f => encodeDpShift .sbc f
  | .sbcReg f => encodeDpReg .sbc f
  | .rscImm f => encodeDpImm .rsc f
  | .rscShift f => encodeDpShift .rsc f
  | .rscReg f => encodeDpReg .rsc f
  | .tstImm f => encodeDpImm .tst f.toDp
  | .tstShift f => encodeDpShift .tst f.toDp
  | .tstReg f => encodeDpReg .tst f.toDp
  | .teqImm f => encodeDpImm .teq f.toDp
  | .teqShift f => encodeDpShift .teq f.toDp
  | .teqReg f => encodeDpReg .teq f.toDp
  | .cmpImm f => encodeDpImm .cmp f.toDp
  | .cmpShift f => encodeDpShift .cmp f.toDp
  | .cmpReg f => encodeDpReg .cmp f.toDp
  | .cmnImm f => encodeDpImm .cmn f.toDp
  | .cmnShift f => encodeDpShift .cmn f.toDp
  | .cmnReg f => encodeDpReg .cmn f.toDp
  | .orrImm f => encodeDpImm .orr f
  | .orrShift f => encodeDpShift .orr f
  | .orrReg f => encodeDpReg .orr f
  | .movImm f => encodeDpImm .mov f
  | .movShift f => encodeDpShift .mov f
  | .movReg f => encodeDpReg .mov f
  | .bicImm f => encodeDpImm .bic f
  | .bicShift f => encodeDpShift .bic f
  | .bicReg f => encodeDpReg .bic f
  | .mvnImm f => encodeDpImm .mvn f
  | .mvnShift f => encodeDpShift .mvn f
  | .mvnReg f => encodeDpReg .mvn f

/-! ### The parts of the descriptor every class has, R85 -/

/-- The condition field of an instruction (R71, R85). -/
def Instr.cond : Instr → Cond
  | .bx f => f.cond
  | .b f => f.cond
  | .bl f => f.cond
  | .swi f => f.cond
  | .cdp f => f.cond
  | .mrc f => f.cond
  | .mcr f => f.cond
  | .ldc f => f.cond
  | .stc f => f.cond
  | .ldmia f => f.cond
  | .ldmib f => f.cond
  | .ldmda f => f.cond
  | .ldmdb f => f.cond
  | .stmia f => f.cond
  | .stmib f => f.cond
  | .stmda f => f.cond
  | .stmdb f => f.cond
  | .ldmiaUser f => f.cond
  | .ldmibUser f => f.cond
  | .ldmdaUser f => f.cond
  | .ldmdbUser f => f.cond
  | .stmiaUser f => f.cond
  | .stmibUser f => f.cond
  | .stmdaUser f => f.cond
  | .stmdbUser f => f.cond
  | .undefSpace f => f.cond
  | .ldrImmPre f => f.cond
  | .ldrImmPost f => f.cond
  | .ldrtImm f => f.cond
  | .strImmPre f => f.cond
  | .strImmPost f => f.cond
  | .strtImm f => f.cond
  | .ldrbImmPre f => f.cond
  | .ldrbImmPost f => f.cond
  | .ldrbtImm f => f.cond
  | .strbImmPre f => f.cond
  | .strbImmPost f => f.cond
  | .strbtImm f => f.cond
  | .ldrRegPre f => f.cond
  | .ldrRegPost f => f.cond
  | .ldrtReg f => f.cond
  | .strRegPre f => f.cond
  | .strRegPost f => f.cond
  | .strtReg f => f.cond
  | .ldrbRegPre f => f.cond
  | .ldrbRegPost f => f.cond
  | .ldrbtReg f => f.cond
  | .strbRegPre f => f.cond
  | .strbRegPost f => f.cond
  | .strbtReg f => f.cond
  | .mul f => f.cond
  | .mla f => f.cond
  | .umull f => f.cond
  | .umlal f => f.cond
  | .smull f => f.cond
  | .smlal f => f.cond
  | .swp f => f.cond
  | .swpb f => f.cond
  | .ldrhImm f => f.cond
  | .strhImm f => f.cond
  | .ldrsbImm f => f.cond
  | .ldrshImm f => f.cond
  | .strsbImm f => f.cond
  | .strshImm f => f.cond
  | .ldrhReg f => f.cond
  | .strhReg f => f.cond
  | .ldrsbReg f => f.cond
  | .ldrshReg f => f.cond
  | .strsbReg f => f.cond
  | .strshReg f => f.cond
  | .undefMul f => f.cond
  | .mrs f => f.cond
  | .msrCpsr f => f.cond
  | .msrSpsr f => f.cond
  | .msrFlags f => f.cond
  | .undefPsr f => f.cond
  | .andImm f => f.cond
  | .andShift f => f.cond
  | .andReg f => f.cond
  | .eorImm f => f.cond
  | .eorShift f => f.cond
  | .eorReg f => f.cond
  | .subImm f => f.cond
  | .subShift f => f.cond
  | .subReg f => f.cond
  | .rsbImm f => f.cond
  | .rsbShift f => f.cond
  | .rsbReg f => f.cond
  | .addImm f => f.cond
  | .addShift f => f.cond
  | .addReg f => f.cond
  | .adcImm f => f.cond
  | .adcShift f => f.cond
  | .adcReg f => f.cond
  | .sbcImm f => f.cond
  | .sbcShift f => f.cond
  | .sbcReg f => f.cond
  | .rscImm f => f.cond
  | .rscShift f => f.cond
  | .rscReg f => f.cond
  | .tstImm f => f.cond
  | .tstShift f => f.cond
  | .tstReg f => f.cond
  | .teqImm f => f.cond
  | .teqShift f => f.cond
  | .teqReg f => f.cond
  | .cmpImm f => f.cond
  | .cmpShift f => f.cond
  | .cmpReg f => f.cond
  | .cmnImm f => f.cond
  | .cmnShift f => f.cond
  | .cmnReg f => f.cond
  | .orrImm f => f.cond
  | .orrShift f => f.cond
  | .orrReg f => f.cond
  | .movImm f => f.cond
  | .movShift f => f.cond
  | .movReg f => f.cond
  | .bicImm f => f.cond
  | .bicShift f => f.cond
  | .bicReg f => f.cond
  | .mvnImm f => f.cond
  | .mvnShift f => f.cond
  | .mvnReg f => f.cond

/-- The class of an instruction (R73, R85). -/
def Instr.cls : Instr → InstrClass
  | .bx _ => .bx
  | .b _ => .bBl
  | .bl _ => .bBl
  | .swi _ => .swi
  | .cdp _ => .coproc
  | .mrc _ => .coproc
  | .mcr _ => .coproc
  | .ldc _ => .coproc
  | .stc _ => .coproc
  | .ldmia _ => .ldmStm
  | .ldmib _ => .ldmStm
  | .ldmda _ => .ldmStm
  | .ldmdb _ => .ldmStm
  | .stmia _ => .ldmStm
  | .stmib _ => .ldmStm
  | .stmda _ => .ldmStm
  | .stmdb _ => .ldmStm
  | .ldmiaUser _ => .ldmStm
  | .ldmibUser _ => .ldmStm
  | .ldmdaUser _ => .ldmStm
  | .ldmdbUser _ => .ldmStm
  | .stmiaUser _ => .ldmStm
  | .stmibUser _ => .ldmStm
  | .stmdaUser _ => .ldmStm
  | .stmdbUser _ => .ldmStm
  | .undefSpace _ => .undefined
  | .ldrImmPre _ => .ldrStr
  | .ldrImmPost _ => .ldrStr
  | .ldrtImm _ => .ldrStr
  | .strImmPre _ => .ldrStr
  | .strImmPost _ => .ldrStr
  | .strtImm _ => .ldrStr
  | .ldrbImmPre _ => .ldrStr
  | .ldrbImmPost _ => .ldrStr
  | .ldrbtImm _ => .ldrStr
  | .strbImmPre _ => .ldrStr
  | .strbImmPost _ => .ldrStr
  | .strbtImm _ => .ldrStr
  | .ldrRegPre _ => .ldrStr
  | .ldrRegPost _ => .ldrStr
  | .ldrtReg _ => .ldrStr
  | .strRegPre _ => .ldrStr
  | .strRegPost _ => .ldrStr
  | .strtReg _ => .ldrStr
  | .ldrbRegPre _ => .ldrStr
  | .ldrbRegPost _ => .ldrStr
  | .ldrbtReg _ => .ldrStr
  | .strbRegPre _ => .ldrStr
  | .strbRegPost _ => .ldrStr
  | .strbtReg _ => .ldrStr
  | .mul _ => .mulMla
  | .mla _ => .mulMla
  | .umull _ => .mullMlal
  | .umlal _ => .mullMlal
  | .smull _ => .mullMlal
  | .smlal _ => .mullMlal
  | .swp _ => .swp
  | .swpb _ => .swp
  | .ldrhImm _ => .ldrStrHsImm
  | .strhImm _ => .ldrStrHsImm
  | .ldrsbImm _ => .ldrStrHsImm
  | .ldrshImm _ => .ldrStrHsImm
  | .strsbImm _ => .ldrStrHsImm
  | .strshImm _ => .ldrStrHsImm
  | .ldrhReg _ => .ldrStrHsReg
  | .strhReg _ => .ldrStrHsReg
  | .ldrsbReg _ => .ldrStrHsReg
  | .ldrshReg _ => .ldrStrHsReg
  | .strsbReg _ => .ldrStrHsReg
  | .strshReg _ => .ldrStrHsReg
  | .undefMul _ => .undefined
  | .mrs _ => .mrs
  | .msrCpsr _ => .msrReg
  | .msrSpsr _ => .msrReg
  | .msrFlags _ => .msrFlags
  | .undefPsr _ => .undefined
  | .andImm _ => .dp
  | .andShift _ => .dp
  | .andReg _ => .dp
  | .eorImm _ => .dp
  | .eorShift _ => .dp
  | .eorReg _ => .dp
  | .subImm _ => .dp
  | .subShift _ => .dp
  | .subReg _ => .dp
  | .rsbImm _ => .dp
  | .rsbShift _ => .dp
  | .rsbReg _ => .dp
  | .addImm _ => .dp
  | .addShift _ => .dp
  | .addReg _ => .dp
  | .adcImm _ => .dp
  | .adcShift _ => .dp
  | .adcReg _ => .dp
  | .sbcImm _ => .dp
  | .sbcShift _ => .dp
  | .sbcReg _ => .dp
  | .rscImm _ => .dp
  | .rscShift _ => .dp
  | .rscReg _ => .dp
  | .tstImm _ => .dp
  | .tstShift _ => .dp
  | .tstReg _ => .dp
  | .teqImm _ => .dp
  | .teqShift _ => .dp
  | .teqReg _ => .dp
  | .cmpImm _ => .dp
  | .cmpShift _ => .dp
  | .cmpReg _ => .dp
  | .cmnImm _ => .dp
  | .cmnShift _ => .dp
  | .cmnReg _ => .dp
  | .orrImm _ => .dp
  | .orrShift _ => .dp
  | .orrReg _ => .dp
  | .movImm _ => .dp
  | .movShift _ => .dp
  | .movReg _ => .dp
  | .bicImm _ => .dp
  | .bicShift _ => .dp
  | .bicReg _ => .dp
  | .mvnImm _ => .dp
  | .mvnShift _ => .dp
  | .mvnReg _ => .dp

/-! ### The opcode table, R95 -/

/-- One row of opcode_table.json (R95): its mnemonic, its `match` and `mask`, and the line of R72 that selects it. -/
structure TableRow where
  mnemonic : String
  pattern : Word
  mask : Word
  line : DecodeLine
deriving DecidableEq, Repr

/-- Whether a row matches a word (R95). -/
def TableRow.covers (r : TableRow) (w : Word) : Bool := w &&& r.mask == r.pattern

/-- Lines 1 to 3: BX, B, BL and SWI (R77 to R79). -/
def rowsBranch : List TableRow :=
  [ ⟨"BX", 0x012FFF10, 0x0FFFFFF0, .l1⟩,
    ⟨"B", 0x0A000000, 0x0F000000, .l2⟩,
    ⟨"BL", 0x0B000000, 0x0F000000, .l2⟩,
    ⟨"SWI", 0x0F000000, 0x0F000000, .l3⟩ ]

/-- Lines 4 and 5: the coprocessor space (R84). -/
def rowsCoproc : List TableRow :=
  [ ⟨"CDP", 0x0E000000, 0x0F000010, .l4⟩,
    ⟨"MRC", 0x0E100010, 0x0F100010, .l4⟩,
    ⟨"MCR", 0x0E000010, 0x0F100010, .l4⟩,
    ⟨"LDC", 0x0C100000, 0x0E100000, .l5⟩,
    ⟨"STC", 0x0C000000, 0x0E100000, .l5⟩ ]

/-- Line 6, S = 0: the block transfers (R83). -/
def rowsBlock : List TableRow :=
  [ ⟨"LDMIA", 0x08900000, 0x0FD00000, .l6⟩,
    ⟨"LDMIB", 0x09900000, 0x0FD00000, .l6⟩,
    ⟨"LDMDA", 0x08100000, 0x0FD00000, .l6⟩,
    ⟨"LDMDB", 0x09100000, 0x0FD00000, .l6⟩,
    ⟨"STMIA", 0x08800000, 0x0FD00000, .l6⟩,
    ⟨"STMIB", 0x09800000, 0x0FD00000, .l6⟩,
    ⟨"STMDA", 0x08000000, 0x0FD00000, .l6⟩,
    ⟨"STMDB", 0x09000000, 0x0FD00000, .l6⟩ ]

/-- Line 6, S = 1, and line 7 (R83, R296). -/
def rowsBlockUser : List TableRow :=
  [ ⟨"LDMIA^", 0x08D00000, 0x0FD00000, .l6⟩,
    ⟨"LDMIB^", 0x09D00000, 0x0FD00000, .l6⟩,
    ⟨"LDMDA^", 0x08500000, 0x0FD00000, .l6⟩,
    ⟨"LDMDB^", 0x09500000, 0x0FD00000, .l6⟩,
    ⟨"STMIA^", 0x08C00000, 0x0FD00000, .l6⟩,
    ⟨"STMIB^", 0x09C00000, 0x0FD00000, .l6⟩,
    ⟨"STMDA^", 0x08400000, 0x0FD00000, .l6⟩,
    ⟨"STMDB^", 0x09400000, 0x0FD00000, .l6⟩,
    ⟨"UNDEFINED", 0x06000010, 0x0E000010, .l7⟩ ]

/-- Line 8, immediate offset (R81). -/
def rowsSingleImm : List TableRow :=
  [ ⟨"LDR", 0x05100000, 0x0F500000, .l8⟩,
    ⟨"LDR", 0x04100000, 0x0F700000, .l8⟩,
    ⟨"LDRT", 0x04300000, 0x0F700000, .l8⟩,
    ⟨"STR", 0x05000000, 0x0F500000, .l8⟩,
    ⟨"STR", 0x04000000, 0x0F700000, .l8⟩,
    ⟨"STRT", 0x04200000, 0x0F700000, .l8⟩,
    ⟨"LDRB", 0x05500000, 0x0F500000, .l8⟩,
    ⟨"LDRB", 0x04500000, 0x0F700000, .l8⟩,
    ⟨"LDRBT", 0x04700000, 0x0F700000, .l8⟩,
    ⟨"STRB", 0x05400000, 0x0F500000, .l8⟩,
    ⟨"STRB", 0x04400000, 0x0F700000, .l8⟩,
    ⟨"STRBT", 0x04600000, 0x0F700000, .l8⟩ ]

/-- Line 8, register offset (R81). -/
def rowsSingleReg : List TableRow :=
  [ ⟨"LDR", 0x07100000, 0x0F500010, .l8⟩,
    ⟨"LDR", 0x06100000, 0x0F700010, .l8⟩,
    ⟨"LDRT", 0x06300000, 0x0F700010, .l8⟩,
    ⟨"STR", 0x07000000, 0x0F500010, .l8⟩,
    ⟨"STR", 0x06000000, 0x0F700010, .l8⟩,
    ⟨"STRT", 0x06200000, 0x0F700010, .l8⟩,
    ⟨"LDRB", 0x07500000, 0x0F500010, .l8⟩,
    ⟨"LDRB", 0x06500000, 0x0F700010, .l8⟩,
    ⟨"LDRBT", 0x06700000, 0x0F700010, .l8⟩,
    ⟨"STRB", 0x07400000, 0x0F500010, .l8⟩,
    ⟨"STRB", 0x06400000, 0x0F700010, .l8⟩,
    ⟨"STRBT", 0x06600000, 0x0F700010, .l8⟩ ]

/-- Lines 9a to 9c: the multiplies and the swaps (R84). -/
def rowsMultiply : List TableRow :=
  [ ⟨"MUL", 0x00000090, 0x0FE000F0, .l9a⟩,
    ⟨"MLA", 0x00200090, 0x0FE000F0, .l9a⟩,
    ⟨"UMULL", 0x00800090, 0x0FE000F0, .l9b⟩,
    ⟨"UMLAL", 0x00A00090, 0x0FE000F0, .l9b⟩,
    ⟨"SMULL", 0x00C00090, 0x0FE000F0, .l9b⟩,
    ⟨"SMLAL", 0x00E00090, 0x0FE000F0, .l9b⟩,
    ⟨"SWP", 0x01000090, 0x0FF00FF0, .l9c⟩,
    ⟨"SWPB", 0x01400090, 0x0FF00FF0, .l9c⟩ ]

/-- Lines 9d to 9f: the halfword and signed transfers, and the residue of line 9 (R82, R296). -/
def rowsHalf : List TableRow :=
  [ ⟨"LDRH", 0x005000B0, 0x0E5000F0, .l9d⟩,
    ⟨"STRH", 0x004000B0, 0x0E5000F0, .l9d⟩,
    ⟨"LDRSB", 0x005000D0, 0x0E5000F0, .l9d⟩,
    ⟨"LDRSH", 0x005000F0, 0x0E5000F0, .l9d⟩,
    ⟨"STRSB", 0x004000D0, 0x0E5000F0, .l9d⟩,
    ⟨"STRSH", 0x004000F0, 0x0E5000F0, .l9d⟩,
    ⟨"LDRH", 0x001000B0, 0x0E5000F0, .l9e⟩,
    ⟨"STRH", 0x000000B0, 0x0E5000F0, .l9e⟩,
    ⟨"LDRSB", 0x001000D0, 0x0E5000F0, .l9e⟩,
    ⟨"LDRSH", 0x001000F0, 0x0E5000F0, .l9e⟩,
    ⟨"STRSB", 0x000000D0, 0x0E5000F0, .l9e⟩,
    ⟨"STRSH", 0x000000F0, 0x0E5000F0, .l9e⟩,
    ⟨"UNDEFINED", 0x00000090, 0x0E000090, .l9f⟩ ]

/-- Lines 10 to 13: the status register words and the residue of line 13 (R80, R84, R296). -/
def rowsPsr : List TableRow :=
  [ ⟨"MRS", 0x010F0000, 0x0FBF0FFF, .l10⟩,
    ⟨"MSR", 0x0129F000, 0x0FFFFFF0, .l11⟩,
    ⟨"MSR", 0x0169F000, 0x0FFFFFF0, .l11⟩,
    ⟨"MSR", 0x0128F000, 0x0DBFF000, .l12⟩,
    ⟨"UNDEFINED", 0x01000000, 0x0D900000, .l13⟩ ]

/-- Line 14, opcodes 0 to 3 (R74 to R76). -/
def rowsLogic : List TableRow :=
  [ ⟨"AND", 0x02000000, 0x0FE00000, .l14⟩,
    ⟨"AND", 0x00000000, 0x0FE00010, .l14⟩,
    ⟨"AND", 0x00000010, 0x0FE00090, .l14⟩,
    ⟨"EOR", 0x02200000, 0x0FE00000, .l14⟩,
    ⟨"EOR", 0x00200000, 0x0FE00010, .l14⟩,
    ⟨"EOR", 0x00200010, 0x0FE00090, .l14⟩,
    ⟨"SUB", 0x02400000, 0x0FE00000, .l14⟩,
    ⟨"SUB", 0x00400000, 0x0FE00010, .l14⟩,
    ⟨"SUB", 0x00400010, 0x0FE00090, .l14⟩,
    ⟨"RSB", 0x02600000, 0x0FE00000, .l14⟩,
    ⟨"RSB", 0x00600000, 0x0FE00010, .l14⟩,
    ⟨"RSB", 0x00600010, 0x0FE00090, .l14⟩ ]

/-- Line 14, opcodes 4 to 7 (R74 to R76). -/
def rowsArith : List TableRow :=
  [ ⟨"ADD", 0x02800000, 0x0FE00000, .l14⟩,
    ⟨"ADD", 0x00800000, 0x0FE00010, .l14⟩,
    ⟨"ADD", 0x00800010, 0x0FE00090, .l14⟩,
    ⟨"ADC", 0x02A00000, 0x0FE00000, .l14⟩,
    ⟨"ADC", 0x00A00000, 0x0FE00010, .l14⟩,
    ⟨"ADC", 0x00A00010, 0x0FE00090, .l14⟩,
    ⟨"SBC", 0x02C00000, 0x0FE00000, .l14⟩,
    ⟨"SBC", 0x00C00000, 0x0FE00010, .l14⟩,
    ⟨"SBC", 0x00C00010, 0x0FE00090, .l14⟩,
    ⟨"RSC", 0x02E00000, 0x0FE00000, .l14⟩,
    ⟨"RSC", 0x00E00000, 0x0FE00010, .l14⟩,
    ⟨"RSC", 0x00E00010, 0x0FE00090, .l14⟩ ]

/-- Line 14, opcodes 8 to 11, S = 1 (R74 to R76). -/
def rowsCompare : List TableRow :=
  [ ⟨"TST", 0x03100000, 0x0FF00000, .l14⟩,
    ⟨"TST", 0x01100000, 0x0FF00010, .l14⟩,
    ⟨"TST", 0x01100010, 0x0FF00090, .l14⟩,
    ⟨"TEQ", 0x03300000, 0x0FF00000, .l14⟩,
    ⟨"TEQ", 0x01300000, 0x0FF00010, .l14⟩,
    ⟨"TEQ", 0x01300010, 0x0FF00090, .l14⟩,
    ⟨"CMP", 0x03500000, 0x0FF00000, .l14⟩,
    ⟨"CMP", 0x01500000, 0x0FF00010, .l14⟩,
    ⟨"CMP", 0x01500010, 0x0FF00090, .l14⟩,
    ⟨"CMN", 0x03700000, 0x0FF00000, .l14⟩,
    ⟨"CMN", 0x01700000, 0x0FF00010, .l14⟩,
    ⟨"CMN", 0x01700010, 0x0FF00090, .l14⟩ ]

/-- Line 14, opcodes 12 to 15 (R74 to R76). -/
def rowsMove : List TableRow :=
  [ ⟨"ORR", 0x03800000, 0x0FE00000, .l14⟩,
    ⟨"ORR", 0x01800000, 0x0FE00010, .l14⟩,
    ⟨"ORR", 0x01800010, 0x0FE00090, .l14⟩,
    ⟨"MOV", 0x03A00000, 0x0FE00000, .l14⟩,
    ⟨"MOV", 0x01A00000, 0x0FE00010, .l14⟩,
    ⟨"MOV", 0x01A00010, 0x0FE00090, .l14⟩,
    ⟨"BIC", 0x03C00000, 0x0FE00000, .l14⟩,
    ⟨"BIC", 0x01C00000, 0x0FE00010, .l14⟩,
    ⟨"BIC", 0x01C00010, 0x0FE00090, .l14⟩,
    ⟨"MVN", 0x03E00000, 0x0FE00000, .l14⟩,
    ⟨"MVN", 0x01E00000, 0x0FE00010, .l14⟩,
    ⟨"MVN", 0x01E00010, 0x0FE00090, .l14⟩ ]

/-- opcode_table.json, its 124 rows in its order, which is that of R72 (R95). -/
def opcodeTable : List TableRow :=
  rowsBranch ++ rowsCoproc ++ rowsBlock ++ rowsBlockUser ++ rowsSingleImm ++
    rowsSingleReg ++ rowsMultiply ++ rowsHalf ++ rowsPsr ++ rowsLogic ++
    rowsArith ++ rowsCompare ++ rowsMove

/-- R95: the row that applies to a word is the first that matches it; its place in the table, counted from 0. -/
def firstRow (w : Word) : Option Nat := opcodeTable.findIdx? fun r => r.covers w

/-- The place in the table of an instruction's row: the constructors stand in the table's order (R95). -/
def Instr.row : Instr → Nat
  | .bx _ => 0
  | .b _ => 1
  | .bl _ => 2
  | .swi _ => 3
  | .cdp _ => 4
  | .mrc _ => 5
  | .mcr _ => 6
  | .ldc _ => 7
  | .stc _ => 8
  | .ldmia _ => 9
  | .ldmib _ => 10
  | .ldmda _ => 11
  | .ldmdb _ => 12
  | .stmia _ => 13
  | .stmib _ => 14
  | .stmda _ => 15
  | .stmdb _ => 16
  | .ldmiaUser _ => 17
  | .ldmibUser _ => 18
  | .ldmdaUser _ => 19
  | .ldmdbUser _ => 20
  | .stmiaUser _ => 21
  | .stmibUser _ => 22
  | .stmdaUser _ => 23
  | .stmdbUser _ => 24
  | .undefSpace _ => 25
  | .ldrImmPre _ => 26
  | .ldrImmPost _ => 27
  | .ldrtImm _ => 28
  | .strImmPre _ => 29
  | .strImmPost _ => 30
  | .strtImm _ => 31
  | .ldrbImmPre _ => 32
  | .ldrbImmPost _ => 33
  | .ldrbtImm _ => 34
  | .strbImmPre _ => 35
  | .strbImmPost _ => 36
  | .strbtImm _ => 37
  | .ldrRegPre _ => 38
  | .ldrRegPost _ => 39
  | .ldrtReg _ => 40
  | .strRegPre _ => 41
  | .strRegPost _ => 42
  | .strtReg _ => 43
  | .ldrbRegPre _ => 44
  | .ldrbRegPost _ => 45
  | .ldrbtReg _ => 46
  | .strbRegPre _ => 47
  | .strbRegPost _ => 48
  | .strbtReg _ => 49
  | .mul _ => 50
  | .mla _ => 51
  | .umull _ => 52
  | .umlal _ => 53
  | .smull _ => 54
  | .smlal _ => 55
  | .swp _ => 56
  | .swpb _ => 57
  | .ldrhImm _ => 58
  | .strhImm _ => 59
  | .ldrsbImm _ => 60
  | .ldrshImm _ => 61
  | .strsbImm _ => 62
  | .strshImm _ => 63
  | .ldrhReg _ => 64
  | .strhReg _ => 65
  | .ldrsbReg _ => 66
  | .ldrshReg _ => 67
  | .strsbReg _ => 68
  | .strshReg _ => 69
  | .undefMul _ => 70
  | .mrs _ => 71
  | .msrCpsr _ => 72
  | .msrSpsr _ => 73
  | .msrFlags _ => 74
  | .undefPsr _ => 75
  | .andImm _ => 76
  | .andShift _ => 77
  | .andReg _ => 78
  | .eorImm _ => 79
  | .eorShift _ => 80
  | .eorReg _ => 81
  | .subImm _ => 82
  | .subShift _ => 83
  | .subReg _ => 84
  | .rsbImm _ => 85
  | .rsbShift _ => 86
  | .rsbReg _ => 87
  | .addImm _ => 88
  | .addShift _ => 89
  | .addReg _ => 90
  | .adcImm _ => 91
  | .adcShift _ => 92
  | .adcReg _ => 93
  | .sbcImm _ => 94
  | .sbcShift _ => 95
  | .sbcReg _ => 96
  | .rscImm _ => 97
  | .rscShift _ => 98
  | .rscReg _ => 99
  | .tstImm _ => 100
  | .tstShift _ => 101
  | .tstReg _ => 102
  | .teqImm _ => 103
  | .teqShift _ => 104
  | .teqReg _ => 105
  | .cmpImm _ => 106
  | .cmpShift _ => 107
  | .cmpReg _ => 108
  | .cmnImm _ => 109
  | .cmnShift _ => 110
  | .cmnReg _ => 111
  | .orrImm _ => 112
  | .orrShift _ => 113
  | .orrReg _ => 114
  | .movImm _ => 115
  | .movShift _ => 116
  | .movReg _ => 117
  | .bicImm _ => 118
  | .bicShift _ => 119
  | .bicReg _ => 120
  | .mvnImm _ => 121
  | .mvnShift _ => 122
  | .mvnReg _ => 123

end Sys2Proof
end

