-- ==== Sys2Proof/Machine/Reset.lean ====
section
/-! DEFINITION. The reset procedure (70_reset_and_hazards.md R340 to R342; 10_state.md R40) for every draw, every launch and
every state of the bus. `State.reset` is its value at the draw of zeros (log entry 1), no listed memory and the default
launch. -/

namespace Sys2Proof.Machine

/-- `ResetDraw` (R6, R340, D22): the values the reset leaves unspecified. -/
structure ResetDraw where
  regs : Regs
  spsr : Spsrs
  n : Bool
  z : Bool
  c : Bool
  v : Bool
  /-- CPSR bits 27:8. -/
  reserved : BitVec 20
deriving DecidableEq, Repr

/-- The state before the procedure's `ApplyFlush` (R340). -/
def ResetDraw.beforeRefill (d : ResetDraw) (launch : Launch) : State :=
  { regs := d.regs
    pcf := 0
    ia := 0
    cpsr :=
      { n := d.n, z := d.z, c := d.c, v := d.v, reserved := d.reserved, i := true, f := true, t := false, mode := .svc }
    spsr := d.spsr
    qcur := 0
    qnext := 0
    icycles := 0
    err := none
    refused := false
    mem := launch.mem
    dev := launch.dev
    steps := 0
    busLog := []
    launch := launch }

/-- `Reset(draw)`, R340: the bus's memory and other state at launch are not touched (R342), but by the two reads of the
refill if those have side effects. -/
def resetProcedure (d : ResetDraw) (launch : Launch) : State :=
  (d.beforeRefill launch).applyFlush

/-- The values of a state that `Reset` would have drawn. -/
def State.resetDraw (s : State) : ResetDraw :=
  { regs := s.regs, spsr := s.spsr, n := s.cpsr.n, z := s.cpsr.z, c := s.cpsr.c, v := s.cpsr.v, reserved := s.cpsr.reserved }

/-- Whether a state is one that `Reset` produces with its launch (R340), every field of it. -/
def State.isReset (s : State) : Bool := decide (s = resetProcedure s.resetDraw s.launch)

/-- The draw of `State.reset`: all zeros (log entry 1, DESIGN CHOICE). -/
def ResetDraw.zeros : ResetDraw :=
  { regs :=
      { low := #v[0, 0, 0, 0, 0, 0, 0, 0], usrHigh := #v[0, 0, 0, 0, 0], fiqHigh := #v[0, 0, 0, 0, 0]
        sp := Banked.all 0, lr := Banked.all 0 }
    spsr := { fiq := 0, irq := 0, svc := 0, abt := 0, und := 0 }
    n := false
    z := false
    c := false
    v := false
    reserved := 0 }

end Sys2Proof.Machine
end

