-- ==== Sys2Proof/Machine/Driver.lean ====
section
/-! DEFINITION. The pipeline driver's own parts (40_dispatch.md R110, R113, R115, R116; 60_exceptions.md R312;
70_reset_and_hazards.md R344): when a step does not begin, which instruction it runs, and what it does after the
instruction. -/

namespace Sys2Proof.Machine

/-- The last clause of `CleanLaunch` (R343): the prefetched words are what the bus would return now. -/
def State.prefetchIsTheBus (s : State) : Bool :=
  s.qcur == s.busReadValue .word s.ia && s.qnext == s.busReadValue .word (s.ia + 4)

/-- Whether a state is outside the spec (R344): `PCF ≠ IA + 8` or `IA` not word-aligned, which no step of a run leaves (R24,
R55), or a launch, a state with no step completed, whose prefetched words are not what the bus would return now (R343) and
which is not a state that `Reset` produces (log entry 19). Log entry 18. -/
def State.brokenLaunch (s : State) : Bool :=
  !(s.pcf == s.ia + 8 && s.ia.extractLsb 1 0 == 0 &&
    (s.steps != 0 || s.prefetchIsTheBus || s.isReset))

/-- The tests at the start of `Step(S)`, in R110's order: `ERR`, `REFUSED`, `StopAddress`, then `CPSR.T`; and, last, that the
state is not outside the spec (R344). None: the step begins. -/
def State.noStep (s : State) : Option (Host.Outcome State Fault Refusal) :=
  match s.err with
  | some e => some (.fault (.errorSet e))
  | none =>
    if s.refused = true then some (.refused .refusedSet)
    else if s.launch.stopAddress = some s.ia then some (.fault .runEnded)
    else if s.cpsr.t = true then some (.refused (.thumbState { s with refused := true }))
    else if s.brokenLaunch = true then some (.fault .brokenLaunch)
    else none

/-- The instruction a step runs: the word in `QCUR`, decoded (R110). -/
def State.nextInstr (s : State) : Instr := decodeWord s.qcur

/-- The lines a source gives at a boundary. -/
def Source.linesAt (q : Source) (n : Nat) : Lines :=
  match q with
  | .cycle lines => lines[n % lines.length]?.getD { irq := false, fiq := false }
  | .free k => { irq := (Config.interruptSource k n).1, fiq := (Config.interruptSource k n).2 }

/-- The first entry for a boundary in a list of requests, and the source's lines when there is none. -/
def linesAt : List (Nat × Lines) → Source → Nat → Lines
  | [], otherwise, n => otherwise.linesAt n
  | (k, q) :: rest, otherwise, n => if k = n then q else linesAt rest otherwise n

/-- `InterruptSource(n)`, R312 (log entry 5). -/
def Launch.interruptSource (l : Launch) (n : Nat) : Lines := linesAt l.requests l.otherwise n

/-- `SampleInterrupts(S)`, R115 and R312: FIQ first, each gated by its mask; the link value is the next instruction's
address plus 4. -/
def State.sampleInterrupts (s : State) : State :=
  let q := s.launch.interruptSource s.steps
  if q.fiq = true ∧ s.cpsr.f = false then (s.enterException .fiq (s.ia + 4)).applyFlush
  else if q.irq = true ∧ s.cpsr.i = false then (s.enterException .irq (s.ia + 4)).applyFlush
  else s

/-- The end of a step whose instruction completed (R110, R114, R312): the step is counted, and interrupts are sampled
unless the flush refused. -/
def State.endStep (s : State) : State :=
  let s1 : State := { s with steps := s.steps + 1 }
  if s1.refused = true then s1 else s1.sampleInterrupts

/-- A state with a word where the step takes its next instruction from: `QCUR` (R110), and memory at `IA`, of which
`QCUR` is the copy (R36). The bits above `nbits` are zero. -/
def State.placeInstruction (s : State) (nbits w : Nat) : State :=
  let word : Word := BitVec.ofNat 32 (w % 2 ^ nbits)
  { s with qcur := word, mem := s.mem.setWord s.ia word }

end Sys2Proof.Machine
end

