-- ==== Sys2Proof/Machine/Step.lean ====
section
/-! DEFINITION. One step of the model, `Step(S)` (40_dispatch.md R110). -/

namespace Sys2Proof.Machine

/-- `Step(S)`, R110: no step where `noStep` says so; otherwise the instruction in `QCUR`, then `endStep`; an error and a
refusal are the step's outcome (R15, R107). -/
def step (s : State) : Host.Outcome State Fault Refusal :=
  match s.noStep with
  | some stop => stop
  | none =>
    match exec s.nextInstr s with
    | .next s1 => .next s1.endStep
    | .fault f => .fault f
    | .refused r => .refused r

/-- `s` with an instruction word where `step` takes its next instruction from. -/
def State.withFetchWord (s : State) (nbits w : Nat) : State := s.placeInstruction nbits w

end Sys2Proof.Machine
end

