-- ==== Sys2Proof/Machine/Descriptor.lean ====
section
/-! DEFINITION. The descriptor of an instruction (30_encoding.md R85): the fields its class's handler takes. Claims that
cover a whole class name its instructions through it. `exec` does not go through it: `Laws.exec_eq_handler` says that the
two agree. -/

namespace Sys2Proof.Machine

/-- The class-specific part of R85, one constructor per handler and one for the classes without (R100). -/
inductive Descriptor where
  | branchExchange (rn : RegIx)
  | branch (link : Bool) (imm24 : BitVec 24)
  | swi
  /-- MSR, register form: `toSpsr` is P. -/
  | msr (toSpsr : Bool) (rm : RegIx)
  /-- Data processing: `setsFlags` is S. -/
  | dataProcessing (op : AluOp) (setsFlags : Bool) (rn rd : RegIx) (o : Operand2)
  | single (t : Transfer)
  /-- Block transfer: `sBit` is S. -/
  | block (sBit : Bool) (t : BlockTransfer)
  /-- A class without a handler. -/
  | unimplemented
deriving DecidableEq, Repr

/-- The descriptor of an instruction. -/
def describe : Instr → Descriptor
  | .bx f => .branchExchange f.rn
  | .b f => .branch false f.imm24
  | .bl f => .branch true f.imm24
  | .swi _ => .swi
  | .cdp _ => .unimplemented
  | .mrc _ => .unimplemented
  | .mcr _ => .unimplemented
  | .ldc _ => .unimplemented
  | .stc _ => .unimplemented
  | .ldmia f => .block false (blockOf f true false true)
  | .ldmib f => .block false (blockOf f true true true)
  | .ldmda f => .block false (blockOf f true false false)
  | .ldmdb f => .block false (blockOf f true true false)
  | .stmia f => .block false (blockOf f false false true)
  | .stmib f => .block false (blockOf f false true true)
  | .stmda f => .block false (blockOf f false false false)
  | .stmdb f => .block false (blockOf f false true false)
  | .ldmiaUser f => .block true (blockOf f true false true)
  | .ldmibUser f => .block true (blockOf f true true true)
  | .ldmdaUser f => .block true (blockOf f true false false)
  | .ldmdbUser f => .block true (blockOf f true true false)
  | .stmiaUser f => .block true (blockOf f false false true)
  | .stmibUser f => .block true (blockOf f false true true)
  | .stmdaUser f => .block true (blockOf f false false false)
  | .stmdbUser f => .block true (blockOf f false true false)
  | .undefSpace _ => .unimplemented
  | .ldrImmPre f => .single (transferImmPre f .word true)
  | .ldrImmPost f => .single (transferImmPost f .word true false)
  | .ldrtImm f => .single (transferImmPost f .word true true)
  | .strImmPre f => .single (transferImmPre f .word false)
  | .strImmPost f => .single (transferImmPost f .word false false)
  | .strtImm f => .single (transferImmPost f .word false true)
  | .ldrbImmPre f => .single (transferImmPre f .ubyte true)
  | .ldrbImmPost f => .single (transferImmPost f .ubyte true false)
  | .ldrbtImm f => .single (transferImmPost f .ubyte true true)
  | .strbImmPre f => .single (transferImmPre f .ubyte false)
  | .strbImmPost f => .single (transferImmPost f .ubyte false false)
  | .strbtImm f => .single (transferImmPost f .ubyte false true)
  | .ldrRegPre f => .single (transferRegPre f .word true)
  | .ldrRegPost f => .single (transferRegPost f .word true false)
  | .ldrtReg f => .single (transferRegPost f .word true true)
  | .strRegPre f => .single (transferRegPre f .word false)
  | .strRegPost f => .single (transferRegPost f .word false false)
  | .strtReg f => .single (transferRegPost f .word false true)
  | .ldrbRegPre f => .single (transferRegPre f .ubyte true)
  | .ldrbRegPost f => .single (transferRegPost f .ubyte true false)
  | .ldrbtReg f => .single (transferRegPost f .ubyte true true)
  | .strbRegPre f => .single (transferRegPre f .ubyte false)
  | .strbRegPost f => .single (transferRegPost f .ubyte false false)
  | .strbtReg f => .single (transferRegPost f .ubyte false true)
  | .mul _ => .unimplemented
  | .mla _ => .unimplemented
  | .umull _ => .unimplemented
  | .umlal _ => .unimplemented
  | .smull _ => .unimplemented
  | .smlal _ => .unimplemented
  | .swp _ => .unimplemented
  | .swpb _ => .unimplemented
  | .ldrhImm f => .single (transferHsImm f .uhalf true)
  | .strhImm f => .single (transferHsImm f .uhalf false)
  | .ldrsbImm f => .single (transferHsImm f .sbyte true)
  | .ldrshImm f => .single (transferHsImm f .shalf true)
  | .strsbImm f => .single (transferHsImm f .sbyte false)
  | .strshImm f => .single (transferHsImm f .shalf false)
  | .ldrhReg f => .single (transferHsReg f .uhalf true)
  | .strhReg f => .single (transferHsReg f .uhalf false)
  | .ldrsbReg f => .single (transferHsReg f .sbyte true)
  | .ldrshReg f => .single (transferHsReg f .shalf true)
  | .strsbReg f => .single (transferHsReg f .sbyte false)
  | .strshReg f => .single (transferHsReg f .shalf false)
  | .undefMul _ => .unimplemented
  | .mrs _ => .unimplemented
  | .msrCpsr f => .msr false f.rm
  | .msrSpsr f => .msr true f.rm
  | .msrFlags _ => .unimplemented
  | .undefPsr _ => .unimplemented
  | .andImm f => .dataProcessing .and f.s f.rn f.rd (.imm f.rot f.imm8)
  | .andShift f => .dataProcessing .and f.s f.rn f.rd (.shift f.type f.shiftImm f.rm)
  | .andReg f => .dataProcessing .and f.s f.rn f.rd (.regShift f.type f.rs f.rm)
  | .eorImm f => .dataProcessing .eor f.s f.rn f.rd (.imm f.rot f.imm8)
  | .eorShift f => .dataProcessing .eor f.s f.rn f.rd (.shift f.type f.shiftImm f.rm)
  | .eorReg f => .dataProcessing .eor f.s f.rn f.rd (.regShift f.type f.rs f.rm)
  | .subImm f => .dataProcessing .sub f.s f.rn f.rd (.imm f.rot f.imm8)
  | .subShift f => .dataProcessing .sub f.s f.rn f.rd (.shift f.type f.shiftImm f.rm)
  | .subReg f => .dataProcessing .sub f.s f.rn f.rd (.regShift f.type f.rs f.rm)
  | .rsbImm f => .dataProcessing .rsb f.s f.rn f.rd (.imm f.rot f.imm8)
  | .rsbShift f => .dataProcessing .rsb f.s f.rn f.rd (.shift f.type f.shiftImm f.rm)
  | .rsbReg f => .dataProcessing .rsb f.s f.rn f.rd (.regShift f.type f.rs f.rm)
  | .addImm f => .dataProcessing .add f.s f.rn f.rd (.imm f.rot f.imm8)
  | .addShift f => .dataProcessing .add f.s f.rn f.rd (.shift f.type f.shiftImm f.rm)
  | .addReg f => .dataProcessing .add f.s f.rn f.rd (.regShift f.type f.rs f.rm)
  | .adcImm f => .dataProcessing .adc f.s f.rn f.rd (.imm f.rot f.imm8)
  | .adcShift f => .dataProcessing .adc f.s f.rn f.rd (.shift f.type f.shiftImm f.rm)
  | .adcReg f => .dataProcessing .adc f.s f.rn f.rd (.regShift f.type f.rs f.rm)
  | .sbcImm f => .dataProcessing .sbc f.s f.rn f.rd (.imm f.rot f.imm8)
  | .sbcShift f => .dataProcessing .sbc f.s f.rn f.rd (.shift f.type f.shiftImm f.rm)
  | .sbcReg f => .dataProcessing .sbc f.s f.rn f.rd (.regShift f.type f.rs f.rm)
  | .rscImm f => .dataProcessing .rsc f.s f.rn f.rd (.imm f.rot f.imm8)
  | .rscShift f => .dataProcessing .rsc f.s f.rn f.rd (.shift f.type f.shiftImm f.rm)
  | .rscReg f => .dataProcessing .rsc f.s f.rn f.rd (.regShift f.type f.rs f.rm)
  | .tstImm f => .dataProcessing .tst true f.rn f.rd (.imm f.rot f.imm8)
  | .tstShift f => .dataProcessing .tst true f.rn f.rd (.shift f.type f.shiftImm f.rm)
  | .tstReg f => .dataProcessing .tst true f.rn f.rd (.regShift f.type f.rs f.rm)
  | .teqImm f => .dataProcessing .teq true f.rn f.rd (.imm f.rot f.imm8)
  | .teqShift f => .dataProcessing .teq true f.rn f.rd (.shift f.type f.shiftImm f.rm)
  | .teqReg f => .dataProcessing .teq true f.rn f.rd (.regShift f.type f.rs f.rm)
  | .cmpImm f => .dataProcessing .cmp true f.rn f.rd (.imm f.rot f.imm8)
  | .cmpShift f => .dataProcessing .cmp true f.rn f.rd (.shift f.type f.shiftImm f.rm)
  | .cmpReg f => .dataProcessing .cmp true f.rn f.rd (.regShift f.type f.rs f.rm)
  | .cmnImm f => .dataProcessing .cmn true f.rn f.rd (.imm f.rot f.imm8)
  | .cmnShift f => .dataProcessing .cmn true f.rn f.rd (.shift f.type f.shiftImm f.rm)
  | .cmnReg f => .dataProcessing .cmn true f.rn f.rd (.regShift f.type f.rs f.rm)
  | .orrImm f => .dataProcessing .orr f.s f.rn f.rd (.imm f.rot f.imm8)
  | .orrShift f => .dataProcessing .orr f.s f.rn f.rd (.shift f.type f.shiftImm f.rm)
  | .orrReg f => .dataProcessing .orr f.s f.rn f.rd (.regShift f.type f.rs f.rm)
  | .movImm f => .dataProcessing .mov f.s f.rn f.rd (.imm f.rot f.imm8)
  | .movShift f => .dataProcessing .mov f.s f.rn f.rd (.shift f.type f.shiftImm f.rm)
  | .movReg f => .dataProcessing .mov f.s f.rn f.rd (.regShift f.type f.rs f.rm)
  | .bicImm f => .dataProcessing .bic f.s f.rn f.rd (.imm f.rot f.imm8)
  | .bicShift f => .dataProcessing .bic f.s f.rn f.rd (.shift f.type f.shiftImm f.rm)
  | .bicReg f => .dataProcessing .bic f.s f.rn f.rd (.regShift f.type f.rs f.rm)
  | .mvnImm f => .dataProcessing .mvn f.s f.rn f.rd (.imm f.rot f.imm8)
  | .mvnShift f => .dataProcessing .mvn f.s f.rn f.rd (.shift f.type f.shiftImm f.rm)
  | .mvnReg f => .dataProcessing .mvn f.s f.rn f.rd (.regShift f.type f.rs f.rm)

/-- The handler of a descriptor (R100, R104). -/
def Descriptor.handler : Descriptor → State → HandlerResult
  | .branchExchange rn => branchExchangeHandler rn
  | .branch link imm24 => branchHandler link imm24
  | .swi => swiHandler
  | .msr false rm => msrCpsrHandler rm
  | .msr true rm => msrSpsrHandler rm
  | .dataProcessing op setsFlags rn rd o => Sys2Proof.Machine.dataProcessing op setsFlags rn rd o
  | .single t => singleTransfer t
  | .block sBit t => blockTransfer sBit t
  | .unimplemented => Sys2Proof.Machine.unimplemented

end Sys2Proof.Machine
end

