-- ==== Sys2Proof/Safety.lean ====
section
/-! DEFINITION. The terms claims are stated in: the launch premise and the invariant, what a safe run is, what a step keeps
and how it goes on, and the rules of the spec that speak of every instruction at once (which errors, which actions, which
bus accesses, which cycles) as functions of the descriptor. No definition here is called by the machine. -/

namespace Sys2Proof

/-- The number of bytes of an access of a width (R50). -/
def Width.bytes : Width → Nat
  | .byte => 1
  | .half => 2
  | .word => 4

/-! ### Data processing as arithmetic (R164, R165, R176 to R191) -/

/-- Whether an opcode is of the arithmetic kind (R165). -/
def AluOp.arithmetic : AluOp → Bool
  | .sub | .rsb | .add | .adc | .sbc | .rsc | .cmp | .cmn => true
  | .and | .eor | .tst | .teq | .orr | .mov | .bic | .mvn => false

/-- The exact integer an arithmetic opcode computes from its operands read by `val` (R178 to R183, R186, R187); zero for a
logical opcode. -/
def AluOp.exact (op : AluOp) (val : Word → Int) (a b : Word) (c : Bool) : Int :=
  match op with
  | .add | .cmn => val a + val b
  | .adc => val a + val b + c.toNat
  | .sub | .cmp => val a - val b
  | .sbc => val a - val b - (1 - c.toNat)
  | .rsb => val b - val a
  | .rsc => val b - val a - (1 - c.toNat)
  | .and | .eor | .tst | .teq | .orr | .mov | .bic | .mvn => 0

/-- The result of an opcode, R176 to R191: bitwise, or the exact result modulo 2^32. -/
def AluOp.result (op : AluOp) (a b : Word) (c : Bool) : Word :=
  match op with
  | .and | .tst => a &&& b
  | .eor | .teq => a ^^^ b
  | .orr => a ||| b
  | .mov => b
  | .bic => a &&& ~~~b
  | .mvn => ~~~b
  | .sub | .rsb | .add | .adc | .sbc | .rsc | .cmp | .cmn =>
    BitVec.ofInt 32 (op.exact (fun x => (x.toNat : Int)) a b c)

/-- The carry of an opcode: the shifter's for the logical kinds (R172); a carry out of an addition, no borrow in a
subtraction (R164, R192). -/
def AluOp.carry (op : AluOp) (a b : Word) (c sc : Bool) : Bool :=
  match op with
  | .and | .eor | .tst | .teq | .orr | .mov | .bic | .mvn => sc
  | .add | .cmn | .adc => decide ((2 : Int) ^ 32 ≤ op.exact (fun x => (x.toNat : Int)) a b c)
  | .sub | .cmp | .sbc | .rsb | .rsc => decide (0 ≤ op.exact (fun x => (x.toNat : Int)) a b c)

/-- The overflow of an opcode: unchanged for the logical kinds (R172); otherwise whether the signed result leaves the 32-bit
range (R192). -/
def AluOp.overflow (op : AluOp) (a b : Word) (c v : Bool) : Bool :=
  if op.arithmetic = true then
    decide (op.exact BitVec.toInt a b c < -(2 : Int) ^ 31 ∨ (2 : Int) ^ 31 ≤ op.exact BitVec.toInt a b c)
  else v

end Sys2Proof

namespace Sys2Proof.Machine

/-! ### States a run can be in -/

/-- `CleanLaunch(S)`, R343: the two words are those the bus would return now. `CPSR.M` is valid by its type. -/
abbrev State.CleanLaunch (s : State) : Prop :=
  s.err = none ∧ s.refused = false ∧ s.cpsr.t = false ∧ s.ia.extractLsb 1 0 = 0 ∧ s.pcf = s.ia + 8 ∧
    s.qcur = s.busReadValue .word s.ia ∧ s.qnext = s.busReadValue .word (s.ia + 4)

/-- The invariant of a run: memory is canonical, no error is recorded (an error ends the run, R37), and the state is
either refused with T = 1 (R114) or at an aligned instruction whose R15 reads two instructions ahead (R24, R55). -/
abbrev State.Coherent (s : State) : Prop :=
  s.mem.wf ∧ s.err = none ∧
    ((s.refused = true ∧ s.cpsr.t = true) ∨ (s.refused = false ∧ s.ia.extractLsb 1 0 = 0 ∧ s.pcf = s.ia + 8))

/-- What holds when the handler of an instruction starts (R24, R110): `PCF = IA + 8` and the ARM state. -/
abbrev State.Executing (s : State) : Prop := s.pcf = s.ia + 8 ∧ s.cpsr.t = false

/-- A run of `k` steps, none of which is an error or a refusal (R15). -/
def State.SafeFor : Nat → State → Prop
  | 0, _ => True
  | k + 1, s => ∃ t, step s = .next t ∧ State.SafeFor k t

/-! ### Sequences of bus accesses -/

/-- One call of the bus (R50). -/
inductive Access where
  | read (width : Width) (addr : Word)
  | write (width : Width) (addr value : Word)
deriving DecidableEq, Repr

/-- The width of an access. -/
def Access.width : Access → Width
  | .read w _ => w
  | .write w _ _ => w

/-- The address of an access. -/
def Access.addr : Access → Word
  | .read _ a => a
  | .write _ a _ => a

/-- The state after an access. -/
def Access.apply (x : Access) (s : State) : State :=
  match x with
  | .read w a => s.afterRead w a
  | .write w a v => s.busWrite w a v

/-- The state after accesses in order, each complete before the next (R57, R61): only the bus changes. -/
def State.busAfter (s : State) (l : List Access) : State := l.foldl (fun b x => x.apply b) s

/-- The bus of `t` is the bus of `b`: its memory, its other state and the calls made of it. -/
abbrev State.BusIs (t b : State) : Prop := t.mem = b.mem ∧ t.dev = b.dev ∧ t.busLog = b.busLog

/-- An access to the flat memory. -/
def Launch.plainAccess (l : Launch) (x : Access) : Bool := l.plain x.width x.addr

/-- An access for which the bus has no step (R67). -/
def Launch.stuckAccess (l : Launch) (x : Access) : Bool := l.stuckAt x.width x.addr

/-- The two reads of a flush in ARM state (R114). -/
def refillReads (a : Word) : List Access := [.read .word a, .read .word (a + 4)]

/-! ### How an instruction goes on -/

/-- `t` is one instruction after `s`: the advance of R112, the word prefetched at `IA + 8` (R111) coming from the bus of
`s`. -/
abbrev State.AdvancesTo (s t : State) : Prop :=
  t.refused = s.refused ∧ t.ia = s.ia + 4 ∧ t.qcur = s.qnext ∧ t.qnext = s.busReadValue .word (s.ia + 8) ∧
    t.pcf = s.ia + 12

/-- `t` is at the word-aligned address of `target`, with both words refilled from the bus as `b` has it (R114); from the flat
memory (log entry 4, DESIGN CHOICE) they are its words. -/
abbrev State.RefilledAt (b t : State) (target : Word) : Prop :=
  t.refused = b.refused ∧ t.ia = target &&& 0xFFFFFFFC ∧ t.pcf = t.ia + 8 ∧
    t.qcur = b.busReadValue .word t.ia ∧ t.qnext = (b.afterRead .word t.ia).busReadValue .word (t.ia + 4) ∧
    t.BusIs (b.busAfter (refillReads t.ia)) ∧
    (b.launch.device t.ia = false → b.launch.device (t.ia + 4) = false →
      t.qcur = t.mem.wordAt t.ia ∧ t.qnext = t.mem.wordAt (t.ia + 4))

/-- `t` is the refused state of a flush with T = 1 (R114): no refill. -/
abbrev State.RefusedAt (s t : State) (target : Word) : Prop :=
  t.refused = true ∧ t.ia = target ∧ t.pcf = target ∧ t.qcur = s.qcur ∧ t.qnext = s.qnext

/-! ### What an instruction keeps -/

/-- Every physical general register but those written is as before (R21). An index that names none, 15, adds none. -/
def State.KeepsRegsBut (s t : State) (written : List (Option PhysReg)) : Prop :=
  ∀ p : PhysReg, some p ∉ written → t.regs.get p = s.regs.get p

/-- The bus of `t` is that of `s` after the accesses of `l` and no others, and where they all go to the flat memory, every
byte of it but the `n` from address `a` on, wrapping at 2^32 (R52), reads as before: the flat memory is log entry 4 (DESIGN
CHOICE). -/
def State.KeepsMemoryBut (s t : State) (l : List Access) (a : Word) (n : Nat) : Prop :=
  t.BusIs (s.busAfter l) ∧
    ((∀ x ∈ l, s.launch.plainAccess x = true) → ∀ b : Word, n ≤ (b - a).toNat → t.mem.byteAt b = s.mem.byteAt b)

/-- The bus of `t` is that of `s` after the accesses of `l` and no others, and where they all go to the flat memory, every
byte of it reads as before: the flat memory is log entry 4 (DESIGN CHOICE). -/
def State.KeepsMemory (s t : State) (l : List Access) : Prop :=
  t.BusIs (s.busAfter l) ∧
    ((∀ x ∈ l, s.launch.plainAccess x = true) → ∀ b : Word, t.mem.byteAt b = s.mem.byteAt b)

/-- What no instruction changes: the launch parameters (R39), the count of steps (which the driver keeps) and `ERR`. -/
abbrev State.KeepsRun (s t : State) : Prop := t.launch = s.launch ∧ t.steps = s.steps ∧ t.err = s.err

/-! ### Addresses -/

/-- How many registers of a block transfer are numbered below `r` (R263): its place in the block, counted from the
lowest address. -/
def BlockTransfer.rank (t : BlockTransfer) (r : RegIx) : Nat :=
  (allRegs.filter fun q => t.list.getLsbD q.toNat && decide (q.toNat < r.toNat)).length

/-- The number of registers of a block transfer (R260). -/
def BlockTransfer.count (t : BlockTransfer) : Nat := t.regs.length

/-- The address of the lowest-numbered register of a block transfer, the table of R263. -/
def BlockTransfer.lowest (t : BlockTransfer) (base : Word) : Word :=
  match t.p, t.u with
  | false, true => base
  | true, true => base + 4
  | false, false => base - 4 * (BitVec.ofNat 32 t.count - 1)
  | true, false => base - 4 * BitVec.ofNat 32 t.count

/-- The address of register `r` in a block transfer (R263). -/
def BlockTransfer.addrOf (t : BlockTransfer) (base : Word) (r : RegIx) : Word :=
  t.lowest base + 4 * BitVec.ofNat 32 (t.rank r)

/-- The final address of a block transfer, the table of R263. -/
def BlockTransfer.final (t : BlockTransfer) (base : Word) : Word :=
  if t.u = true then base + 4 * BitVec.ofNat 32 t.count else base - 4 * BitVec.ofNat 32 t.count

/-! ### Whole-machine rules as functions of the descriptor -/

/-- The classes without a handler (R73, R298). -/
def unimplementedClasses : List InstrClass := [.mulMla, .mullMlal, .swp, .mrs, .msrFlags, .coproc, .undefined]

/-- Whether a data-processing instruction copies the SPSR (R173). -/
def State.restoresStatus (s : State) : Descriptor → Bool
  | .dataProcessing op setsFlags _ rd _ => s.launch.dpPcSRestoresSpsr && setsFlags && rd == 15 && aluWrites op
  | .branchExchange _ | .branch _ _ | .swi | .msr _ _ | .single _ | .block _ _ | .unimplemented => false

/-- Whether `MSR_USER_RESTRICT` limits an MSR to the CPSR (R142). -/
def State.msrRestricted (s : State) : Bool := s.launch.msrUserRestrict && s.cpsr.mode == .usr

/-- The error an instruction whose condition passes raises: the table of R318 in the order of R320. -/
def State.errorOf (s : State) : Descriptor → Option ErrorKind
  | .unimplemented => some .unimplementedClass
  | .single t =>
    if t.w = true ∧ t.rn = t.rd then some .illegalInstruction
    else if t.load = false ∧ (t.kind = .sbyte ∨ t.kind = .shalf) then some .fatalMisuse
    else none
  | .block sBit _ => if sBit = true then some .fatalMisuse else none
  | .msr true _ => if s.cpsr.mode = .usr ∨ s.cpsr.mode = .sys then some .fatalMisuse else none
  | .msr false rm =>
    if s.msrRestricted = true then none
    else if Mode.ofBits ((s.readReg rm).extractLsb 4 0) = none then some .fatalMisuse
    else none
  | .dataProcessing op setsFlags rn rd o =>
    if s.restoresStatus (.dataProcessing op setsFlags rn rd o) = true then
      match s.spsrCur with
      | none => some .fatalMisuse
      | some v => if Mode.ofBits (v.extractLsb 4 0) = none then some .fatalMisuse else none
    else none
  | .branchExchange _ | .branch _ _ | .swi => none

/-- Whether an instruction whose condition passes, and which raises no error, flushes (R106): it writes R15, a base
writeback included, it is B, BL or BX, or it enters an exception. -/
def Descriptor.flushes : Descriptor → Bool
  | .branchExchange _ => true
  | .branch _ _ => true
  | .swi => true
  | .msr _ _ => false
  | .dataProcessing op _ _ rd _ => aluWrites op && rd == 15
  | .single t => (t.load && t.rd == 15) || ((t.w || !t.p) && t.rn == 15)
  | .block _ t => (t.load && t.list.getLsbD 15) || (t.w && !(t.load && t.list.getLsbD t.rn.toNat) && t.rn == 15)
  | .unimplemented => false

/-- The internal cycles an instruction charges (R350). -/
def Descriptor.internalCycles : Descriptor → Nat
  | .dataProcessing _ _ _ _ (.regShift _ _ _) => 1
  | .dataProcessing _ _ _ _ (.imm _ _) => 0
  | .dataProcessing _ _ _ _ (.shift _ _ _) => 0
  | .single t => if t.load = true then 1 else 0
  | .block _ t => if t.load = true then t.count else 0
  | .branchExchange _ | .branch _ _ | .swi | .msr _ _ | .unimplemented => 0

/-- The access of a block transfer for one register (R227, R261, R265): a store sends the register's value at the start,
`IA + 12` for R15. -/
def BlockTransfer.accessOf (t : BlockTransfer) (s : State) (r : RegIx) : Access :=
  if t.load = true then .read .word (t.addrOf (s.readReg t.rn) r)
  else .write .word (t.addrOf (s.readReg t.rn) r) (s.storeValue r)

/-- The data accesses of an instruction, in order (R56, R271): direction, width, address, and the value of a store, of which
the bus takes the low bits of the width (R227). -/
def State.dataAccesses (s : State) : Descriptor → List Access
  | .single t =>
    [if t.load = true then .read t.kind.width (t.addr s) else .write t.kind.width (t.addr s) (s.storeValue t.rd)]
  | .block _ t => t.order.map (t.accessOf s)
  | .branchExchange _ | .branch _ _ | .swi | .msr _ _ | .dataProcessing _ _ _ _ _ | .unimplemented => []

/-- The accesses of an instruction before its pipeline action: the prefetch (R111), and its data accesses when its condition
passes (R56). -/
def State.ownAccesses (s : State) (i : Instr) : List Access :=
  .read .word (s.ia + 8) :: if conditionPassed i.cond s.cpsr = true then s.dataAccesses (describe i) else []

/-- The state the refill of a flush reads the bus in: that after the instruction's own accesses (R114). -/
abbrev State.beforeRefill (s : State) (i : Instr) : State := s.busAfter (s.ownAccesses i)

/-- All the accesses of an instruction that ends in `t`: with the two refill reads when it flushes in ARM state (R56,
R114). -/
def State.accesses (s : State) (i : Instr) (t : State) : List Access :=
  s.ownAccesses i ++
    if conditionPassed i.cond s.cpsr = true ∧ (describe i).flushes = true ∧ t.cpsr.t = false then refillReads t.ia
    else []

/-- The word a block load gives register `r`, from the state `p` after the prefetch: what the bus returns at the register's
address after the loads that come before it (R261, R271). -/
def State.blockWord (p : State) (t : BlockTransfer) (r : RegIx) : Word :=
  (p.busAfter ((t.order.takeWhile fun q => q != r).map (t.accessOf p))).busReadValue .word
    (t.addrOf (p.readReg t.rn) r)

end Sys2Proof.Machine
end

