-- ==== Sys2Proof/Certificates/Slice0/Obligations.lean ====
section
/-! DEFINITION. The statements for the provers, from the numbered rules of the spec. Each docstring names the rules; where a
statement covers several instructions it names them. `describe i` (R85) says which instruction `i` is. The clauses about
bytes of memory, in `KeepsMemory`, `KeepsMemoryBut` and `RefilledAt` too, are of accesses to the flat memory, which is the
model's choice (log entry 4); of any other access they say that its effect is the bus's. -/

open Sys2Proof Sys2Proof.Machine

/-! ### Encoding -/

/-- Decode and encode agree, for every well-formed instruction of the table with every operand at every value (R72 to
R84). -/
def Obligations.DecodeOfEncode : Prop := ∀ i : Instr, i.WellFormed = true → decodeWord (encode i) = i

/-- The decoder is total and drops no bit: every word is a well-formed instruction, and encodes back to itself (R72, R85). -/
def Obligations.EncodeOfDecode : Prop := ∀ w : Word, (decodeWord w).WellFormed = true ∧ encode (decodeWord w) = w

/-- Words the spec writes out, one or more of each family, and what they are (the examples of 41_branch.md to
46_unimplemented.md). -/
def Obligations.SampleWordsDecode : Prop :=
  decodeWord 0xE12FFF10 = .bx { cond := .al, rn := 0 } ∧
    decodeWord 0xEBFFFBFE = .bl { cond := .al, imm24 := 0xFFFBFE } ∧
    decodeWord 0xEF000000 = .swi { cond := .al, comment24 := 0 } ∧
    decodeWord 0xE169F001 = .msrSpsr { cond := .al, rm := 1 } ∧
    decodeWord 0xE0110002 =
      .andShift { cond := .al, s := true, rn := 1, rd := 0, shiftImm := 0, type := .lsl, rm := 2 } ∧
    decodeWord 0xE3110102 = .tstImm { cond := .al, rn := 1, rd := 0, rot := 1, imm8 := 2 } ∧
    decodeWord 0xE5910004 = .ldrImmPre { cond := .al, u := true, w := false, rn := 1, rd := 0, imm12 := 4 } ∧
    decodeWord 0xE4B10004 = .ldrtImm { cond := .al, u := true, rn := 1, rd := 0, imm12 := 4 } ∧
    decodeWord 0xE7C10002 =
      .strbRegPre { cond := .al, u := true, w := false, rn := 1, rd := 0, shiftImm := 0, type := .lsl, rm := 2 } ∧
    decodeWord 0xE14100B2 =
      .strhImm { cond := .al, p := true, u := false, w := false, rn := 1, rd := 0, imm4H := 0, imm4L := 2 } ∧
    decodeWord 0xE19100F2 =
      .ldrshReg { cond := .al, p := true, u := true, w := false, rn := 1, rd := 0, ignored := 0, rm := 2 } ∧
    decodeWord 0xE8BD0007 = .ldmia { cond := .al, w := true, rn := 13, list := 0x0007 } ∧
    decodeWord 0xE92D0007 = .stmdb { cond := .al, w := true, rn := 13, list := 0x0007 } ∧
    decodeWord 0xE8D00002 = .ldmiaUser { cond := .al, w := false, rn := 0, list := 0x0002 } ∧
    decodeWord 0xE0000291 = .mul { cond := .al, s := false, rd := 0, rn := 0, rs := 2, rm := 1 } ∧
    decodeWord 0xE10F0000 = .mrs { cond := .al, p := false, rd := 0 } ∧
    decodeWord 0xEE100F10 =
      .mrc { cond := .al, op1 := 0, crn := 0, rd := 0, cp := 15, op2 := 0, crm := 0 } ∧
    decodeWord 0xE7F000F0 = .undefSpace { cond := .al, hi := 0xF8007, lo := 0 }

/-- R72: the class of a word is that of the first line that matches; bits 31:28 take no part; every word of class DP with
opcode 8 to 11 has S = 1. -/
def Obligations.ClassOfAWord : Prop :=
  (∀ w : Word, (decodeWord w).cls =
    if w &&& 0x0FFFFFF0 = 0x012FFF10 then .bx
    else if bits w 27 25 = 0b101 then .bBl
    else if bits w 27 24 = 0b1111 then .swi
    else if bits w 27 24 = 0b1110 then .coproc
    else if bits w 27 25 = 0b110 then .coproc
    else if bits w 27 25 = 0b100 then .ldmStm
    else if bits w 27 25 = 0b011 ∧ bit w 4 = true then .undefined
    else if bits w 27 26 = 0b01 then .ldrStr
    else if bit w 25 = false ∧ bit w 7 = true ∧ bit w 4 = true then
      if w &&& 0x0FC000F0 = 0x00000090 then .mulMla
      else if w &&& 0x0F8000F0 = 0x00800090 then .mullMlal
      else if w &&& 0x0FB00FF0 = 0x01000090 then .swp
      else if bits w 6 5 ≠ 0b00 ∧ bit w 22 = true then .ldrStrHsImm
      else if bits w 6 5 ≠ 0b00 ∧ bit w 22 = false then .ldrStrHsReg
      else .undefined
    else if w &&& 0x0FBF0FFF = 0x010F0000 then .mrs
    else if w &&& 0x0FBFFFF0 = 0x0129F000 then .msrReg
    else if w &&& 0x0DBFF000 = 0x0128F000 then .msrFlags
    else if w &&& 0x0D900000 = 0x01000000 then .undefined
    else .dp) ∧
  (∀ v w : Word, v &&& 0x0FFFFFFF = w &&& 0x0FFFFFFF → (decodeWord v).cls = (decodeWord w).cls) ∧
  (∀ w : Word, (decodeWord w).cls = .dp → bits w 24 23 = 0b10 → bit w 20 = true)

/-- R71 and R101: bits 31:28 of a word select its condition by the table, which reads N, Z, C and V only. -/
def Obligations.ConditionTable : Prop :=
  ∀ (w : Word) (p : Psr),
    (conditionPassed (decodeWord w).cond p = true ↔
      match (bits w 31 28).toNat with
      | 0 => p.z = true
      | 1 => p.z = false
      | 2 => p.c = true
      | 3 => p.c = false
      | 4 => p.n = true
      | 5 => p.n = false
      | 6 => p.v = true
      | 7 => p.v = false
      | 8 => p.c = true ∧ p.z = false
      | 9 => p.c = false ∨ p.z = true
      | 10 => p.n = p.v
      | 11 => p.n ≠ p.v
      | 12 => p.z = false ∧ p.n = p.v
      | 13 => p.z = true ∨ p.n ≠ p.v
      | 14 => True
      | _ => False)

/-- R74 to R76: the fields of a word of class DP, and a word with bits 7 and 4 set and I = 0 is not of that class; with the
sixteen opcodes of R165 and the four shift types of R76, value by value. -/
def Obligations.DataProcessingFields : Prop :=
  (∀ w : Word, (decodeWord w).cls = .dp →
    describe (decodeWord w) =
      .dataProcessing (AluOp.ofBits (bits w 24 21)) (bit w 20) (bits w 19 16) (bits w 15 12)
        (if bit w 25 = true then .imm (bits w 11 8) (bits w 7 0)
          else if bit w 4 = false then .shift (ShiftType.ofBits (bits w 6 5)) (bits w 11 7) (bits w 3 0)
          else .regShift (ShiftType.ofBits (bits w 6 5)) (bits w 11 8) (bits w 3 0)) ∧
      ¬(bit w 25 = false ∧ bit w 7 = true ∧ bit w 4 = true)) ∧
  (List.range 16).map (fun k => AluOp.ofBits (BitVec.ofNat 4 k)) =
    [.and, .eor, .sub, .rsb, .add, .adc, .sbc, .rsc, .tst, .teq, .cmp, .cmn, .orr, .mov, .bic, .mvn] ∧
  (List.range 4).map (fun k => ShiftType.ofBits (BitVec.ofNat 2 k)) = [.lsl, .lsr, .asr, .ror]

/-- R81, R82 and R220: the fields of a word of the three single-transfer classes, with the four shift types of R76 value by
value. -/
def Obligations.SingleTransferFields : Prop :=
  (∀ w : Word,
    ((decodeWord w).cls = .ldrStr →
      describe (decodeWord w) = .single
        { kind := if bit w 22 = true then .ubyte else .word
          load := bit w 20, p := bit w 24, u := bit w 23, w := bit w 21, rn := bits w 19 16, rd := bits w 15 12
          offset :=
            if bit w 25 = true then .shifted (ShiftType.ofBits (bits w 6 5)) (bits w 11 7) (bits w 3 0)
            else .imm12 (bits w 11 0) }) ∧
    ((decodeWord w).cls = .ldrStrHsImm ∨ (decodeWord w).cls = .ldrStrHsReg →
      bits w 6 5 ≠ 0b00 ∧
      describe (decodeWord w) = .single
        { kind := if bits w 6 5 = 0b01 then .uhalf else if bits w 6 5 = 0b10 then .sbyte else .shalf
          load := bit w 20, p := bit w 24, u := bit w 23, w := bit w 21, rn := bits w 19 16, rd := bits w 15 12
          offset := if bit w 22 = true then .imm4 (bits w 11 8) (bits w 3 0) else .reg (bits w 3 0) })) ∧
  (List.range 4).map (fun k => ShiftType.ofBits (BitVec.ofNat 2 k)) = [.lsl, .lsr, .asr, .ror]

/-- R77 to R80 and R83: the fields of a word of the other five classes with a handler. -/
def Obligations.OtherFields : Prop :=
  ∀ w : Word,
    ((decodeWord w).cls = .bBl → describe (decodeWord w) = .branch (bit w 24) (bits w 23 0)) ∧
    ((decodeWord w).cls = .bx → describe (decodeWord w) = .branchExchange (bits w 3 0)) ∧
    ((decodeWord w).cls = .swi → describe (decodeWord w) = .swi) ∧
    ((decodeWord w).cls = .msrReg → describe (decodeWord w) = .msr (bit w 22) (bits w 3 0)) ∧
    ((decodeWord w).cls = .ldmStm →
      describe (decodeWord w) = .block (bit w 22)
        { load := bit w 20, p := bit w 24, u := bit w 23, w := bit w 21, rn := bits w 19 16, list := bits w 15 0 })

/-- R86: a word with an ignored field nonzero executes exactly as the same word with the field zero: Rn of MOV and MVN, Rd
of the comparisons, bits 11:8 of class LDR_STR_HS_REG. -/
def Obligations.IgnoredFields : Prop :=
  ∀ (w : Word) (s : State),
    ((decodeWord w).cls = .dp → bits w 24 21 = 0b1101 ∨ bits w 24 21 = 0b1111 →
      exec (decodeWord w) s = exec (decodeWord (w &&& 0xFFF0FFFF)) s) ∧
    ((decodeWord w).cls = .dp → bits w 24 23 = 0b10 →
      exec (decodeWord w) s = exec (decodeWord (w &&& 0xFFFF0FFF)) s) ∧
    ((decodeWord w).cls = .ldrStrHsReg → exec (decodeWord w) s = exec (decodeWord (w &&& 0xFFFFF0FF)) s)

/-! ### The step -/

/-- R110: a step that begins runs the instruction in `QCUR`, and ends with `endStep` (the count of steps and the interrupt
sampling); an error is its outcome unchanged (R107), and no instruction is refused. Which states are outside the spec
(`State.brokenLaunch`, log entry 18) `LaunchOutsideTheSpecHasNoStep` says. -/
def Obligations.StepRunsTheDecodedInstruction : Prop :=
  ∀ (s : State) (i : Instr), s.err = none → s.refused = false → s.launch.stopAddress ≠ some s.ia → s.cpsr.t = false →
    s.brokenLaunch = false → decodeWord s.qcur = i →
      (∀ t, exec i s = .next t → step s = .next t.endStep) ∧
        (∀ f, exec i s = .fault f → step s = .fault f) ∧ ∀ r, exec i s ≠ .refused r

/-- R110, R343 and R70: from a launch state whose `IA` is in the flat memory (log entry 4, DESIGN CHOICE) the step runs the
instruction that the four bytes at `IA` decode to. -/
def Obligations.CleanLaunchRunsTheBytesAtIa : Prop :=
  ∀ (s : State) (i : Instr), s.CleanLaunch → s.launch.device s.ia = false → s.launch.stopAddress ≠ some s.ia →
    decode [s.mem.byteAt s.ia, s.mem.byteAt (s.ia + 1), s.mem.byteAt (s.ia + 2), s.mem.byteAt (s.ia + 3)] = .ok (i, []) →
      (∀ t, exec i s = .next t → step s = .next t.endStep) ∧ ∀ f, exec i s = .fault f → step s = .fault f

/-- R37, R38, R113 and R116, in R110's order: when a step does not begin, and what it answers. The spec gives no next state;
which outcome stands for which is the model's: log entry 16 for the end of the run (DESIGN CHOICE), log entries 8 (errors)
and 9 (refusals), DEDUCED. -/
def Obligations.StepThatDoesNotBegin : Prop :=
  ∀ s : State,
    (∀ e, s.err = some e → step s = .fault (.errorSet e)) ∧
    (s.err = none → s.refused = true → step s = .refused .refusedSet) ∧
    (s.err = none → s.refused = false → s.launch.stopAddress = some s.ia → step s = .fault .runEnded) ∧
    (s.err = none → s.refused = false → s.launch.stopAddress ≠ some s.ia → s.cpsr.t = true →
      step s = .refused (.thumbState { s with refused := true }))

/-- R115 and R312: at the boundary after a completed instruction FIQ comes before IRQ, each gated by its mask bit as
the instruction left it; the entry saves the whole CPSR and the next instruction's address plus 4, and flushes to its
vector; without a request that is not masked nothing happens. `b` is the state at the boundary. What the clauses on
the refilled words and the kept bytes say of the flat memory is log entry 4 (DESIGN CHOICE). -/
def Obligations.InterruptsAtTheBoundary : Prop :=
  ∀ (s t b : State) (q : Lines), s.err = none → s.refused = false → s.launch.stopAddress ≠ some s.ia →
    s.cpsr.t = false → s.brokenLaunch = false → exec (decodeWord s.qcur) s = .next t → t.refused = false →
    q = s.launch.interruptSource (s.steps + 1) → b = { t with steps := s.steps + 1 } →
      ∃ u, step s = .next u ∧ u.steps = s.steps + 1 ∧ u.launch = s.launch ∧ u.icycles = t.icycles ∧ u.err = none ∧
        (q.fiq = true ∧ t.cpsr.f = false →
          u.cpsr = { t.cpsr with mode := .fiq, t := false, i := true, f := true } ∧
            u.spsr = { t.spsr with fiq := t.cpsr.toWord } ∧ u.regs.get (.lr .fiq) = t.ia + 4 ∧
            t.KeepsRegsBut u [some (.lr .fiq)] ∧ b.RefilledAt u 0x1C ∧ b.KeepsMemory u (refillReads 0x1C)) ∧
        (¬(q.fiq = true ∧ t.cpsr.f = false) → q.irq = true ∧ t.cpsr.i = false →
          u.cpsr = { t.cpsr with mode := .irq, t := false, i := true } ∧
            u.spsr = { t.spsr with irq := t.cpsr.toWord } ∧ u.regs.get (.lr .irq) = t.ia + 4 ∧
            t.KeepsRegsBut u [some (.lr .irq)] ∧ b.RefilledAt u 0x18 ∧ b.KeepsMemory u (refillReads 0x18)) ∧
        (¬(q.fiq = true ∧ t.cpsr.f = false) → ¬(q.irq = true ∧ t.cpsr.i = false) →
          u = b)

/-- R102: an instruction of any class whose condition fails completes: it only advances, with the prefetch read, whose
effects are the bus's. -/
def Obligations.FailedConditionOnlyAdvances : Prop :=
  ∀ (i : Instr) (s : State), conditionPassed i.cond s.cpsr = false →
    exec i s = .next
      { s with
        ia := s.ia + 4
        qcur := s.qnext
        qnext := s.busReadValue .word (s.ia + 8)
        pcf := s.ia + 12
        mem := s.busReadMem .word (s.ia + 8)
        dev := s.busReadDev .word (s.ia + 8)
        busLog :=
          { op := .read, width := .word, addr := s.ia + 8, value := s.busReadValue .word (s.ia + 8) } :: s.busLog }

/-! ### Errors -/

/-- R318 to R320: an instruction whose condition passes raises exactly the error of R318's table, in R320's order, with the
record of R318, leaving the state as it was after the prefetch but for `ERR`, from which there is no further step; it
completes when the table gives none, unless an access of it is one for which the bus has no step (R67; log entries 3 and 4,
DESIGN CHOICE). -/
def Obligations.ErrorsAreExactlyThese : Prop :=
  ∀ (i : Instr) (s : State), conditionPassed i.cond s.cpsr = true →
    (∀ k, s.errorOf (describe i) = some k →
      ∃ e faulted, exec i s = .fault (.raised e faulted) ∧
        e = { kind := k, ia := s.ia, raw := s.qcur, cls := i.cls } ∧
        faulted = { s.afterRead .word (s.ia + 8) with err := some e } ∧
        step faulted = .fault (.errorSet e)) ∧
    (s.errorOf (describe i) = none → (∀ x ∈ s.dataAccesses (describe i), s.launch.stuckAccess x = false) →
      ∃ t, exec i s = .next t)

/-- R298: `UnimplementedClass` is raised for exactly the seven classes without a handler, and for no others. -/
def Obligations.UnimplementedClassExactly : Prop :=
  ∀ (i : Instr) (s : State),
    (∃ e faulted, exec i s = .fault (.raised e faulted) ∧ e.kind = .unimplementedClass) ↔
      conditionPassed i.cond s.cpsr = true ∧ i.cls ∈ unimplementedClasses

/-- R290: MUL, MLA, UMULL, UMLAL, SMULL, SMLAL, SWP, SWPB, MRS, MSR (flag field), CDP, MRC, MCR, LDC, STC and the
three UNDEFINED rows raise `UnimplementedClass` when the condition passes, before any change, and only advance when it
fails. That the bytes of memory are kept, in the flat memory, is log entry 4 (DESIGN CHOICE). -/
def Obligations.UnimplementedClassesRaise : Prop :=
  ∀ (i : Instr) (s : State), i.cls ∈ unimplementedClasses →
    (conditionPassed i.cond s.cpsr = true →
      exec i s = .fault (.raised { kind := .unimplementedClass, ia := s.ia, raw := s.qcur, cls := i.cls }
        { s.afterRead .word (s.ia + 8) with
          err := some { kind := .unimplementedClass, ia := s.ia, raw := s.qcur, cls := i.cls } })) ∧
    (conditionPassed i.cond s.cpsr = false →
      ∃ t, exec i s = .next t ∧ s.AdvancesTo t ∧ t.regs = s.regs ∧ t.cpsr = s.cpsr ∧ t.spsr = s.spsr ∧
        s.KeepsMemory t (s.accesses i t) ∧ t.icycles = s.icycles ∧ s.KeepsRun t)

/-- R262 and R282: the eight `^` forms, LDM and STM with S = 1, raise `FatalMisuse` whatever the other fields are. -/
def Obligations.UserBankBlockTransfersRaise : Prop :=
  ∀ (f : BlockFields) (i : Instr) (s : State),
    i ∈ [Instr.ldmiaUser f, .ldmibUser f, .ldmdaUser f, .ldmdbUser f, .stmiaUser f, .stmibUser f, .stmdaUser f,
      .stmdbUser f] →
    conditionPassed f.cond s.cpsr = true →
      ∃ e faulted, exec i s = .fault (.raised e faulted) ∧
        e = { kind := .fatalMisuse, ia := s.ia, raw := s.qcur, cls := .ldmStm } ∧ faulted.regs = s.regs ∧
        faulted.pcf = s.pcf ∧ faulted.cpsr = s.cpsr ∧ faulted.spsr = s.spsr ∧
        faulted.BusIs (s.afterRead .word (s.ia + 8)) ∧ faulted.icycles = s.icycles ∧ faulted.err = some e

/-- R223 and R224: a halfword-class store that is not of an unsigned halfword (STRSB, STRSH, both offset forms) raises
`FatalMisuse`, unless W = 1 and Rn = Rd, where it raises `IllegalInstruction`. -/
def Obligations.SignedStoresRaise : Prop :=
  ∀ (i : Instr) (s : State) (t : Transfer), describe i = .single t → t.load = false →
    t.kind = .sbyte ∨ t.kind = .shalf → conditionPassed i.cond s.cpsr = true →
      ∃ e faulted, exec i s = .fault (.raised e faulted) ∧
        e = { kind := if t.w = true ∧ t.rn = t.rd then .illegalInstruction else .fatalMisuse, ia := s.ia, raw := s.qcur
              cls := i.cls } ∧
        faulted.regs = s.regs ∧ faulted.pcf = s.pcf ∧ faulted.cpsr = s.cpsr ∧ faulted.spsr = s.spsr ∧
        faulted.BusIs (s.afterRead .word (s.ia + 8)) ∧ faulted.icycles = s.icycles ∧ faulted.err = some e

/-- R222: a single transfer of any class with W = 1 and Rn = Rd raises `IllegalInstruction`, load and store alike,
once the condition has passed; under a failing condition it is a no-op; with W = 0 it is not checked. That the bytes
of memory are kept, in the flat memory, is log entry 4 (DESIGN CHOICE). -/
def Obligations.WritebackOntoDestinationRaises : Prop :=
  ∀ (i : Instr) (s : State) (t : Transfer), describe i = .single t →
    (t.w = true → t.rn = t.rd → conditionPassed i.cond s.cpsr = true →
      ∃ e faulted, exec i s = .fault (.raised e faulted) ∧
        e = { kind := .illegalInstruction, ia := s.ia, raw := s.qcur, cls := i.cls } ∧ faulted.regs = s.regs ∧
        faulted.pcf = s.pcf ∧ faulted.cpsr = s.cpsr ∧ faulted.spsr = s.spsr ∧
        faulted.BusIs (s.afterRead .word (s.ia + 8)) ∧ faulted.icycles = s.icycles ∧ faulted.err = some e) ∧
    (t.w = true → t.rn = t.rd → conditionPassed i.cond s.cpsr = false →
      ∃ u, exec i s = .next u ∧ s.AdvancesTo u ∧ u.regs = s.regs ∧ s.KeepsMemory u (s.accesses i u)) ∧
    (t.w = false → ∀ e faulted, exec i s = .fault (.raised e faulted) → e.kind ≠ .illegalInstruction)

/-! ### Branches, SWI and exception entry -/

/-- R120: B goes to `IA + 8` plus the offset, always flushes, and changes no register, flag or byte of memory. What
the clauses on the refilled words and the kept bytes say of the flat memory is log entry 4 (DESIGN CHOICE). -/
def Obligations.BranchResult : Prop :=
  ∀ (f : BranchFields) (s : State), conditionPassed f.cond s.cpsr = true → s.Executing →
    ∃ t, exec (.b f) s = .next t ∧ (s.beforeRefill (.b f)).RefilledAt t (s.ia + 8 + f.imm24.signExtend 32 * 4) ∧
      (s.ia.extractLsb 1 0 = 0 → t.ia = s.ia + 8 + f.imm24.signExtend 32 * 4) ∧
      t.regs = s.regs ∧ t.cpsr = s.cpsr ∧ t.spsr = s.spsr ∧ s.KeepsMemory t (s.accesses (.b f) t) ∧
      t.icycles = s.icycles ∧ s.KeepsRun t

/-- R121: BL first puts `IA + 4` with bit 0 clear into the current mode's R14, then goes where B goes. What the
clauses on the refilled words and the kept bytes say of the flat memory is log entry 4 (DESIGN CHOICE). -/
def Obligations.BranchLinkResult : Prop :=
  ∀ (f : BranchFields) (s : State), conditionPassed f.cond s.cpsr = true → s.Executing →
    ∃ t, exec (.bl f) s = .next t ∧ t.readReg 14 = (s.ia + 4) &&& 0xFFFFFFFE ∧
      (s.beforeRefill (.bl f)).RefilledAt t (s.ia + 8 + f.imm24.signExtend 32 * 4) ∧
      (s.ia.extractLsb 1 0 = 0 → t.readReg 14 = s.ia + 4 ∧ t.ia = s.ia + 8 + f.imm24.signExtend 32 * 4) ∧
      s.KeepsRegsBut t [bank s.cpsr.mode 14] ∧ t.cpsr = s.cpsr ∧ t.spsr = s.spsr ∧ s.KeepsMemory t (s.accesses (.bl f) t) ∧
      t.icycles = s.icycles ∧ s.KeepsRun t

/-- R123: BX puts bit 0 of the operand into T and goes to the operand with bit 0 clear: a flush in ARM state (the
fetch at bits 1:0 cleared, R114), the refused state with T = 1. Nothing else changes. What the clauses on the refilled
words and the kept bytes say of the flat memory is log entry 4 (DESIGN CHOICE). -/
def Obligations.BranchExchangeResult : Prop :=
  ∀ (f : BxFields) (s : State), conditionPassed f.cond s.cpsr = true → s.Executing →
    ∃ t, exec (.bx f) s = .next t ∧ t.cpsr = { s.cpsr with t := (s.readReg f.rn).getLsbD 0 } ∧
      ((s.readReg f.rn).getLsbD 0 = false →
        (s.beforeRefill (.bx f)).RefilledAt t (s.readReg f.rn &&& 0xFFFFFFFE)) ∧
      ((s.readReg f.rn).getLsbD 0 = true → s.RefusedAt t (s.readReg f.rn &&& 0xFFFFFFFE)) ∧
      (f.rn = 15 → s.ia.extractLsb 1 0 = 0 → t.cpsr = s.cpsr ∧ (s.beforeRefill (.bx f)).RefilledAt t (s.ia + 8)) ∧
      t.regs = s.regs ∧ t.spsr = s.spsr ∧ s.KeepsMemory t (s.accesses (.bx f) t) ∧
      t.icycles = s.icycles ∧ s.KeepsRun t

/-- R140 and R305: SWI enters svc at vector 8 with `SPSR_svc` the old CPSR, `R14_svc` = `IA + 4`, I = 1, T = 0, F and
the flags kept, and flushes, from every mode. What the clauses on the refilled words and the kept bytes say of the
flat memory is log entry 4 (DESIGN CHOICE). -/
def Obligations.SoftwareInterruptResult : Prop :=
  ∀ (f : SwiFields) (s : State), conditionPassed f.cond s.cpsr = true →
    ∃ t, exec (.swi f) s = .next t ∧ (s.beforeRefill (.swi f)).RefilledAt t 8 ∧
      t.cpsr = { s.cpsr with mode := .svc, t := false, i := true } ∧
      t.spsr = { s.spsr with svc := s.cpsr.toWord } ∧ t.regs.get (.lr .svc) = s.ia + 4 ∧
      s.KeepsRegsBut t [some (.lr .svc)] ∧ s.KeepsMemory t (s.accesses (.swi f) t) ∧
      t.icycles = s.icycles ∧ s.KeepsRun t

/-- R303: exception entry, for every class of R301: the mode, the saved status, the link register of the target mode, T, I,
F for FIQ only, and the vector; and everything it does not change. -/
def Obligations.ExceptionEntry : Prop :=
  ∀ (s t : State) (k : ExceptionClass) (lr : Word), t = s.enterException k lr →
    (k.mode, k.vector) =
      (match k with
      | .undefinedInstruction => (.und, 0x04)
      | .swi => (.svc, 0x08)
      | .prefetchAbort => (.abt, 0x0C)
      | .dataAbort => (.abt, 0x10)
      | .irq => (.irq, 0x18)
      | .fiq => (.fiq, 0x1C)) ∧
    t.cpsr.mode = k.mode ∧ t.spsrCur = some s.cpsr.toWord ∧ t.readReg 14 = lr ∧ t.pcf = k.vector ∧
    t.cpsr.t = false ∧ t.cpsr.i = true ∧ t.cpsr.f = (if k = .fiq then true else s.cpsr.f) ∧
    t.cpsr.n = s.cpsr.n ∧ t.cpsr.z = s.cpsr.z ∧ t.cpsr.c = s.cpsr.c ∧ t.cpsr.v = s.cpsr.v ∧
    t.cpsr.reserved = s.cpsr.reserved ∧ s.KeepsRegsBut t [bank k.mode 14] ∧
    (∀ m, m ≠ k.mode → t.spsr.get m = s.spsr.get m) ∧ t.BusIs s ∧ t.ia = s.ia ∧ t.icycles = s.icycles

/-! ### MSR -/

/-- R144: MSR to the SPSR stores all 32 bits of the register in the current mode's slot and advances; in usr and sys
it is the misuse, with nothing written. That the bytes of memory are kept, in the flat memory, is log entry 4 (DESIGN
CHOICE). -/
def Obligations.MsrSpsrResult : Prop :=
  ∀ (f : MsrRegFields) (s : State), conditionPassed f.cond s.cpsr = true →
    (s.cpsr.mode ≠ .usr ∧ s.cpsr.mode ≠ .sys →
      ∃ t, exec (.msrSpsr f) s = .next t ∧ s.AdvancesTo t ∧ t.spsrCur = some (s.readReg f.rm) ∧
        (∀ m, m ≠ s.cpsr.mode → t.spsr.get m = s.spsr.get m) ∧ t.cpsr = s.cpsr ∧ t.regs = s.regs ∧
        s.KeepsMemory t (s.accesses (.msrSpsr f) t) ∧ t.icycles = s.icycles ∧ s.KeepsRun t) ∧
    (s.cpsr.mode = .usr ∨ s.cpsr.mode = .sys →
      ∃ e faulted, exec (.msrSpsr f) s = .fault (.raised e faulted) ∧
        e = { kind := .fatalMisuse, ia := s.ia, raw := s.qcur, cls := .msrReg } ∧ faulted.spsr = s.spsr ∧
        faulted.cpsr = s.cpsr ∧ faulted.regs = s.regs ∧ faulted.BusIs (s.afterRead .word (s.ia + 8)))

/-- R145 and R142: MSR to the CPSR installs all 32 bits of the register, the mode and with it the banks included, and
advances; an invalid mode field is the misuse, with nothing written. With `MSR_USER_RESTRICT` (default false) an MSR
in usr writes N, Z, C and V only, whatever the image's mode field. No saved status, register or byte of memory
changes. That the bytes of memory are kept, in the flat memory, is log entry 4 (DESIGN CHOICE). -/
def Obligations.MsrCpsrResult : Prop :=
  Launch.default.msrUserRestrict = false ∧
  ∀ (f : MsrRegFields) (s : State), conditionPassed f.cond s.cpsr = true →
    (s.launch.msrUserRestrict = true ∧ s.cpsr.mode = .usr →
      ∃ t, exec (.msrCpsr f) s = .next t ∧ s.AdvancesTo t ∧
        bits t.cpsr.toWord 31 28 = bits (s.readReg f.rm) 31 28 ∧ bits t.cpsr.toWord 27 0 = bits s.cpsr.toWord 27 0 ∧
        t.regs = s.regs ∧ t.spsr = s.spsr ∧ s.KeepsMemory t (s.accesses (.msrCpsr f) t) ∧
        t.icycles = s.icycles ∧ s.KeepsRun t) ∧
    (¬(s.launch.msrUserRestrict = true ∧ s.cpsr.mode = .usr) → Mode.ofBits (bits (s.readReg f.rm) 4 0) ≠ none →
      ∃ t, exec (.msrCpsr f) s = .next t ∧ s.AdvancesTo t ∧ t.cpsr.toWord = s.readReg f.rm ∧
        t.regs = s.regs ∧ t.spsr = s.spsr ∧ s.KeepsMemory t (s.accesses (.msrCpsr f) t) ∧
        t.icycles = s.icycles ∧ s.KeepsRun t) ∧
    (¬(s.launch.msrUserRestrict = true ∧ s.cpsr.mode = .usr) → Mode.ofBits (bits (s.readReg f.rm) 4 0) = none →
      ∃ e faulted, exec (.msrCpsr f) s = .fault (.raised e faulted) ∧
        e = { kind := .fatalMisuse, ia := s.ia, raw := s.qcur, cls := .msrReg } ∧ faulted.spsr = s.spsr ∧
        faulted.cpsr = s.cpsr ∧ faulted.regs = s.regs ∧ faulted.BusIs (s.afterRead .word (s.ia + 8)))

/-! ### Data processing -/

/-- R174 to R183 and R188 to R191: AND, EOR, SUB, RSB, ADD, ADC, SBC, RSC, ORR, MOV, BIC and MVN, in their three
operand forms, with Rd other than R15: the result as arithmetic (`AluOp.result`), the flags when S = 1 as arithmetic
(`AluOp.carry`, `AluOp.overflow`), and the frame. That the bytes of memory are kept, in the flat memory, is log entry
4 (DESIGN CHOICE). -/
def Obligations.DataProcessingResult : Prop :=
  ∀ (i : Instr) (s : State) (op : AluOp) (setsFlags : Bool) (rn rd : RegIx) (o : Operand2),
    describe i = .dataProcessing op setsFlags rn rd o → aluWrites op = true → rd ≠ 15 →
    conditionPassed i.cond s.cpsr = true →
      ∃ t, exec i s = .next t ∧ s.AdvancesTo t ∧
        t.readReg rd = op.result (s.readReg rn) (o.eval s).value s.cpsr.c ∧
        (setsFlags = true →
          t.cpsr =
            { s.cpsr with
              n := (t.readReg rd).getLsbD 31
              z := t.readReg rd == 0
              c := op.carry (s.readReg rn) (o.eval s).value s.cpsr.c (o.eval s).carry
              v := op.overflow (s.readReg rn) (o.eval s).value s.cpsr.c s.cpsr.v }) ∧
        (setsFlags = false → t.cpsr = s.cpsr) ∧
        s.KeepsRegsBut t [bank s.cpsr.mode rd] ∧ t.spsr = s.spsr ∧ s.KeepsMemory t (s.accesses i t) ∧
        t.icycles = s.icycles + (describe i).internalCycles ∧ s.KeepsRun t

/-- R172, R175 and R184 to R187: TST, TEQ, CMP and CMN, in their three operand forms and with any Rd field: the flags,
no register, and an advance. That the bytes of memory are kept, in the flat memory, is log entry 4 (DESIGN CHOICE). -/
def Obligations.ComparisonResult : Prop :=
  ∀ (i : Instr) (s : State) (op : AluOp) (setsFlags : Bool) (rn rd : RegIx) (o : Operand2),
    describe i = .dataProcessing op setsFlags rn rd o → aluWrites op = false →
    conditionPassed i.cond s.cpsr = true →
      setsFlags = true ∧
      ∃ t, exec i s = .next t ∧ s.AdvancesTo t ∧
        t.cpsr =
          { s.cpsr with
            n := (op.result (s.readReg rn) (o.eval s).value s.cpsr.c).getLsbD 31
            z := op.result (s.readReg rn) (o.eval s).value s.cpsr.c == 0
            c := op.carry (s.readReg rn) (o.eval s).value s.cpsr.c (o.eval s).carry
            v := op.overflow (s.readReg rn) (o.eval s).value s.cpsr.c s.cpsr.v } ∧
        t.regs = s.regs ∧ t.spsr = s.spsr ∧ s.KeepsMemory t (s.accesses i t) ∧
        t.icycles = s.icycles + (describe i).internalCycles ∧ s.KeepsRun t

/-- R175 and R173 (the default): an opcode that writes Rd = R15 puts the result into `PCF` and flushes; the flags are
as for any other Rd, no register changes and no SPSR is read. What the clauses on the refilled words and the kept
bytes say of the flat memory is log entry 4 (DESIGN CHOICE). -/
def Obligations.DataProcessingToPc : Prop :=
  Launch.default.dpPcSRestoresSpsr = false ∧
  ∀ (i : Instr) (s : State) (op : AluOp) (setsFlags : Bool) (rn : RegIx) (o : Operand2),
    describe i = .dataProcessing op setsFlags rn 15 o → aluWrites op = true →
    (setsFlags = true → s.launch.dpPcSRestoresSpsr = false) →
    conditionPassed i.cond s.cpsr = true → s.Executing →
      ∃ t, exec i s = .next t ∧
        (s.beforeRefill i).RefilledAt t (op.result (s.readReg rn) (o.eval s).value s.cpsr.c) ∧
        (setsFlags = true →
          t.cpsr =
            { s.cpsr with
              n := (op.result (s.readReg rn) (o.eval s).value s.cpsr.c).getLsbD 31
              z := op.result (s.readReg rn) (o.eval s).value s.cpsr.c == 0
              c := op.carry (s.readReg rn) (o.eval s).value s.cpsr.c (o.eval s).carry
              v := op.overflow (s.readReg rn) (o.eval s).value s.cpsr.c s.cpsr.v }) ∧
        (setsFlags = false → t.cpsr = s.cpsr) ∧
        t.regs = s.regs ∧ t.spsr = s.spsr ∧ s.KeepsMemory t (s.accesses i t) ∧
        t.icycles = s.icycles + (describe i).internalCycles ∧ s.KeepsRun t

/-- R173 with `DP_PC_S_RESTORES_SPSR`, Rd = R15 and S = 1: the return from exception. The CPSR takes all of
`SPSR_cur`, the result goes to `PCF`, and the step flushes (or is refused when the restored T is 1); without a slot,
or with an invalid mode field in it, it is the misuse before anything is written. What the clauses on the refilled
words and the kept bytes say of the flat memory is log entry 4 (DESIGN CHOICE). -/
def Obligations.ReturnRestoresStatus : Prop :=
  ∀ (i : Instr) (s : State) (op : AluOp) (rn : RegIx) (o : Operand2),
    describe i = .dataProcessing op true rn 15 o → aluWrites op = true →
    s.launch.dpPcSRestoresSpsr = true → conditionPassed i.cond s.cpsr = true →
      (∀ v, s.spsrCur = some v → Mode.ofBits (bits v 4 0) ≠ none →
        ∃ t, exec i s = .next t ∧ t.cpsr.toWord = v ∧
          (t.cpsr.t = false → (s.beforeRefill i).RefilledAt t (op.result (s.readReg rn) (o.eval s).value s.cpsr.c)) ∧
          (t.cpsr.t = true → s.RefusedAt t (op.result (s.readReg rn) (o.eval s).value s.cpsr.c)) ∧
          t.regs = s.regs ∧ t.spsr = s.spsr ∧ s.KeepsMemory t (s.accesses i t) ∧
          t.icycles = s.icycles + (describe i).internalCycles ∧ s.KeepsRun t) ∧
      ((s.spsrCur = none ∨ ∃ v, s.spsrCur = some v ∧ Mode.ofBits (bits v 4 0) = none) →
        ∃ e faulted, exec i s = .fault (.raised e faulted) ∧
          e = { kind := .fatalMisuse, ia := s.ia, raw := s.qcur, cls := .dp } ∧ faulted.regs = s.regs ∧
          faulted.pcf = s.pcf ∧ faulted.cpsr = s.cpsr ∧ faulted.spsr = s.spsr ∧
          faulted.BusIs (s.afterRead .word (s.ia + 8)) ∧ faulted.icycles = s.icycles)

/-- R160: the immediate-amount shifter, as arithmetic on the value and by bit for the rotations; and operand 2 of the
immediate-shift form is that shifter of the register by the amount, with the current C (R162, R174). -/
def Obligations.ImmediateShifts : Prop :=
  (∀ (s : State) (type : ShiftType) (amount : BitVec 5) (rm : RegIx),
    (Operand2.shift type amount rm).eval s = shiftImm type amount (s.readReg rm) s.cpsr.c) ∧
  ∀ (n : BitVec 5) (m : Word) (cin : Bool) (k : Nat), k = (if n = 0 then 32 else n.toNat) →
    (n = 0 → shiftImm .lsl n m cin = { value := m, carry := cin }) ∧
    (n ≠ 0 → (shiftImm .lsl n m cin).value.toNat = m.toNat * 2 ^ k % 2 ^ 32 ∧
      (shiftImm .lsl n m cin).carry = m.getLsbD (32 - k)) ∧
    (shiftImm .lsr n m cin).value.toNat = m.toNat / 2 ^ k ∧ (shiftImm .lsr n m cin).carry = m.getLsbD (k - 1) ∧
    (shiftImm .asr n m cin).value.toInt = m.toInt / 2 ^ k ∧ (shiftImm .asr n m cin).carry = m.getLsbD (k - 1) ∧
    (n = 0 → (∀ j < 31, (shiftImm .ror n m cin).value.getLsbD j = m.getLsbD (j + 1)) ∧
      (shiftImm .ror n m cin).value.getLsbD 31 = cin ∧ (shiftImm .ror n m cin).carry = m.getLsbD 0) ∧
    (n ≠ 0 → (∀ j < 32, (shiftImm .ror n m cin).value.getLsbD j = m.getLsbD ((j + k) % 32)) ∧
      (shiftImm .ror n m cin).carry = m.getLsbD (k - 1))

/-- R161: the register-amount shifter, for every amount from 0 to 255; and operand 2 of the register-shift form is that
shifter of Rm by bits 7:0 of Rs, the rest of which does not count (R162, R174, R193), with the current C. -/
def Obligations.RegisterShifts : Prop :=
  (∀ (s : State) (type : ShiftType) (rs rm : RegIx),
    (Operand2.regShift type rs rm).eval s = shiftReg type (bits (s.readReg rs) 7 0) (s.readReg rm) s.cpsr.c) ∧
  ∀ (n : BitVec 8) (m : Word) (cin : Bool),
    (n = 0 → ∀ type, shiftReg type n m cin = { value := m, carry := cin }) ∧
    (n ≠ 0 →
      (shiftReg .lsl n m cin).value.toNat = m.toNat * 2 ^ n.toNat % 2 ^ 32 ∧
      (shiftReg .lsl n m cin).carry = (decide (n.toNat ≤ 32) && m.getLsbD (32 - n.toNat)) ∧
      (shiftReg .lsr n m cin).value.toNat = m.toNat / 2 ^ n.toNat ∧
      (shiftReg .lsr n m cin).carry = (decide (n.toNat ≤ 32) && m.getLsbD (n.toNat - 1)) ∧
      (shiftReg .asr n m cin).value.toInt = m.toInt / 2 ^ n.toNat ∧
      (shiftReg .asr n m cin).carry = m.getLsbD (min n.toNat 32 - 1) ∧
      (∀ j < 32, (shiftReg .ror n m cin).value.getLsbD j = m.getLsbD ((j + n.toNat) % 32)) ∧
      (shiftReg .ror n m cin).carry = m.getLsbD ((n.toNat - 1) % 32))

/-- R163 and R75: the rotated immediate and its carry; and operand 2 of the immediate form is that of its two fields, with
the current C (R174). -/
def Obligations.RotatedImmediates : Prop :=
  (∀ (s : State) (rot : BitVec 4) (imm8 : BitVec 8),
    (Operand2.imm rot imm8).eval s = immOperand rot imm8 s.cpsr.c) ∧
  ∀ (rot : BitVec 4) (imm8 : BitVec 8) (cin : Bool),
    (∀ j < 32, (immOperand rot imm8 cin).value.getLsbD j = imm8.getLsbD ((j + 2 * rot.toNat) % 32)) ∧
    (immOperand rot imm8 cin).carry =
      (if rot = 0 then cin else imm8.getLsbD ((31 + 2 * rot.toNat) % 32))

/-! ### Single transfers -/

/-- R225, R226 and R228: the base, the offset of each form, the effective address (base plus or minus offset, modulo 2^32)
for both values of P, and the address of the access of a single transfer. -/
def Obligations.EffectiveAddress : Prop :=
  ∀ (s : State) (t : Transfer), s.Executing →
    s.transferBase t.rn = (if t.rn = 15 then s.ia + 8 else s.readReg t.rn) ∧ s.transferBase 15 = s.readReg 15 ∧
    (∀ imm, t.offset = .imm12 imm → (t.offset.eval s).toNat = imm.toNat) ∧
    (∀ hi lo, t.offset = .imm4 hi lo → (t.offset.eval s).toNat = 16 * hi.toNat + lo.toNat) ∧
    (∀ rm, t.offset = .reg rm → t.offset.eval s = s.readReg rm) ∧
    (∀ type n rm, t.offset = .shifted type n rm →
      t.offset.eval s = (shiftImm type n (s.readReg rm) s.cpsr.c).value) ∧
    (t.u = true → (t.ea s).toNat = ((s.transferBase t.rn).toNat + (t.offset.eval s).toNat) % 2 ^ 32) ∧
    (t.u = false → ((t.ea s).toNat + (t.offset.eval s).toNat) % 2 ^ 32 = (s.transferBase t.rn).toNat) ∧
    (t.p = true → t.addr s = t.ea s) ∧ (t.p = false → t.addr s = s.transferBase t.rn)

/-- R229 to R231, R232, R234, R235, R237, R239, R240 and R242: LDR, LDRT, LDRB, LDRBT, LDRH, LDRSB and LDRSH, every form: Rd
takes the value the bus returns after the prefetch, extended; the base its writeback, which comes last (R230); a load of R15
and a writeback to R15 flush; one internal cycle; and the frame, memory included where the accesses go to the flat memory.
What a misaligned read and a read in a window return and change is the bus's (log entries 3 and 4, DESIGN CHOICE); where the
bus has no step, `ReferenceBus` says so. -/
def Obligations.LoadResult : Prop :=
  ∀ (i : Instr) (s p : State) (t : Transfer) (v : Word), describe i = .single t → t.load = true →
    conditionPassed i.cond s.cpsr = true → s.Executing → ¬(t.w = true ∧ t.rn = t.rd) →
    s.launch.stuckAt t.kind.width (t.addr s) = false → p = s.afterRead .word (s.ia + 8) →
    v = (match t.kind with
      | .word => p.busReadValue .word (t.addr s)
      | .ubyte => p.busReadValue .byte (t.addr s)
      | .uhalf => p.busReadValue .half (t.addr s)
      | .sbyte => ((p.busReadValue .byte (t.addr s)).setWidth 8).signExtend 32
      | .shalf => ((p.busReadValue .half (t.addr s)).setWidth 16).signExtend 32) →
      ∃ u, exec i s = .next u ∧
        (t.rd ≠ 15 → ¬(t.writesBack = true ∧ t.rn = t.rd) → u.readReg t.rd = v) ∧
        (t.writesBack = true → t.rn ≠ 15 → u.readReg t.rn = t.ea s) ∧
        (if t.writesBack = true ∧ t.rn = 15 then (s.beforeRefill i).RefilledAt u (t.ea s)
          else if t.rd = 15 then (s.beforeRefill i).RefilledAt u v else s.AdvancesTo u) ∧
        s.KeepsRegsBut u [bank s.cpsr.mode t.rd, if t.writesBack = true then bank s.cpsr.mode t.rn else none] ∧
        u.cpsr = s.cpsr ∧ u.spsr = s.spsr ∧ s.KeepsMemory u (s.accesses i u) ∧ u.icycles = s.icycles + 1 ∧ s.KeepsRun u

/-- R227, R230, R231, R233, R234, R236, R238 and R242: STR, STRT, STRB, STRBT and STRH, every form: the bus takes one write
of the value read before any writeback (`State.dataAccesses`); where the accesses go to the flat memory, the bytes stored
are its low bytes and every other byte is as before; the base takes its writeback; a writeback to R15 flushes; and the
frame. What a misaligned store and a store in a window change is the bus's (log entries 3 and 4, DESIGN CHOICE): everything
else holds there too; where the bus has no step, `ReferenceBus` says so. -/
def Obligations.StoreResult : Prop :=
  ∀ (i : Instr) (s : State) (t : Transfer) (v : Word), describe i = .single t → t.load = false →
    t.kind = .word ∨ t.kind = .ubyte ∨ t.kind = .uhalf →
    conditionPassed i.cond s.cpsr = true → s.Executing → ¬(t.w = true ∧ t.rn = t.rd) →
    s.launch.stuckAt t.kind.width (t.addr s) = false →
    v = (if t.rd = 15 then s.ia + 12 else s.readReg t.rd) →
      ∃ u, exec i s = .next u ∧
        s.dataAccesses (describe i) = [.write t.kind.width (t.addr s) v] ∧
        s.KeepsMemoryBut u (s.accesses i u) (t.addr s) t.kind.width.bytes ∧
        ((∀ x ∈ s.accesses i u, s.launch.plainAccess x = true) →
          ∀ k < t.kind.width.bytes,
            u.mem.byteAt (t.addr s + BitVec.ofNat 32 k) = v.extractLsb' (8 * k) 8) ∧
        (t.writesBack = true → t.rn ≠ 15 → u.readReg t.rn = t.ea s) ∧
        (if t.writesBack = true ∧ t.rn = 15 then (s.beforeRefill i).RefilledAt u (t.ea s)
          else s.AdvancesTo u) ∧
        s.KeepsRegsBut u [if t.writesBack = true then bank s.cpsr.mode t.rn else none] ∧
        u.cpsr = s.cpsr ∧ u.spsr = s.spsr ∧ u.icycles = s.icycles ∧ s.KeepsRun u

/-- R234: LDRT, STRT, LDRBT and STRBT execute exactly as the post-indexed LDR, STR, LDRB and STRB, but that Rn = Rd raises
`IllegalInstruction`. -/
def Obligations.UserModeTransfersArePlain : Prop :=
  (∀ (f : ImmPostFields) (s : State), f.rn ≠ f.rd →
    exec (.ldrtImm f) s = exec (.ldrImmPost f) s ∧ exec (.strtImm f) s = exec (.strImmPost f) s ∧
      exec (.ldrbtImm f) s = exec (.ldrbImmPost f) s ∧ exec (.strbtImm f) s = exec (.strbImmPost f) s) ∧
  (∀ (f : RegPostFields) (s : State), f.rn ≠ f.rd →
    exec (.ldrtReg f) s = exec (.ldrRegPost f) s ∧ exec (.strtReg f) s = exec (.strRegPost f) s ∧
      exec (.ldrbtReg f) s = exec (.ldrbRegPost f) s ∧ exec (.strbtReg f) s = exec (.strbRegPost f) s) ∧
  (∀ (f : ImmPostFields) (i : Instr) (s : State), f.rn = f.rd → conditionPassed f.cond s.cpsr = true →
    i ∈ [Instr.ldrtImm f, .strtImm f, .ldrbtImm f, .strbtImm f] →
      ∃ e faulted, exec i s = .fault (.raised e faulted) ∧ e.kind = .illegalInstruction) ∧
  (∀ (f : RegPostFields) (i : Instr) (s : State), f.rn = f.rd → conditionPassed f.cond s.cpsr = true →
    i ∈ [Instr.ldrtReg f, .strtReg f, .ldrbtReg f, .strbtReg f] →
      ∃ e faulted, exec i s = .fault (.raised e faulted) ∧ e.kind = .illegalInstruction)

/-! ### Block transfers -/

/-- R263, R264, R267 to R270, R272 and R273 to R276: LDMIA, LDMIB, LDMDA and LDMDB, every register list, the empty one and
those with the base or R15 included: each listed register takes the word the bus returns at its address by the table of
R263, after the reads that come before it (`State.blockWord`), which in the flat memory is the word there; the base its
writeback unless the list holds it; R15 flushes; one cycle per register; and the frame. What a misaligned read and a read in
a window return and change is the bus's (log entries 3 and 4, DESIGN CHOICE). -/
def Obligations.LoadMultipleResult : Prop :=
  ∀ (i : Instr) (s p : State) (t : BlockTransfer) (base : Word), describe i = .block false t → t.load = true →
    conditionPassed i.cond s.cpsr = true → s.Executing → base = s.readReg t.rn →
    (∀ r : RegIx, t.list.getLsbD r.toNat = true → s.launch.stuckAt .word (t.addrOf base r) = false) →
    p = s.afterRead .word (s.ia + 8) →
      ∃ u, exec i s = .next u ∧
        (∀ r : RegIx, r ≠ 15 → t.list.getLsbD r.toNat = true → u.readReg r = p.blockWord t r) ∧
        ((∀ x ∈ s.ownAccesses i, s.launch.plainAccess x = true) →
          ∀ r : RegIx, t.list.getLsbD r.toNat = true → p.blockWord t r = s.mem.wordAt (t.addrOf base r)) ∧
        (t.w = true → t.list.getLsbD t.rn.toNat = false → t.rn ≠ 15 → u.readReg t.rn = t.final base) ∧
        (if t.list.getLsbD 15 = true then (s.beforeRefill i).RefilledAt u (p.blockWord t 15)
          else if t.w = true ∧ t.rn = 15 then (s.beforeRefill i).RefilledAt u (t.final base)
          else s.AdvancesTo u) ∧
        s.KeepsRegsBut u
          ((t.regs.map (bank s.cpsr.mode)) ++ [if t.w = true then bank s.cpsr.mode t.rn else none]) ∧
        u.cpsr = s.cpsr ∧ u.spsr = s.spsr ∧ s.KeepsMemory u (s.accesses i u) ∧ u.icycles = s.icycles + t.count ∧
        s.KeepsRun u

/-- R263 to R266, R268 to R270, R272 and R277 to R280: STMIA, STMIB, STMDA and STMDB, every register list: the bus takes, in
traversal order, each listed register's value at the start of the instruction (`IA + 12` for R15) at its address by the
table of R263; where the accesses go to the flat memory the words stand there afterwards and every other byte is as before;
the base takes its writeback, never suppressed; a writeback to R15 flushes; and the frame. What a misaligned store and a
store in a window change is the bus's (log entries 3 and 4, DESIGN CHOICE). -/
def Obligations.StoreMultipleResult : Prop :=
  ∀ (i : Instr) (s : State) (t : BlockTransfer) (base : Word), describe i = .block false t → t.load = false →
    conditionPassed i.cond s.cpsr = true → s.Executing → base = s.readReg t.rn →
    (∀ r : RegIx, t.list.getLsbD r.toNat = true → s.launch.stuckAt .word (t.addrOf base r) = false) →
      ∃ u, exec i s = .next u ∧
        u.BusIs (s.busAfter (s.accesses i u)) ∧
        s.dataAccesses (describe i) =
          t.order.map (fun r => .write .word (t.addrOf base r) (if r = 15 then s.ia + 12 else s.readReg r)) ∧
        ((∀ x ∈ s.accesses i u, s.launch.plainAccess x = true) →
          (∀ r : RegIx, t.list.getLsbD r.toNat = true →
            u.mem.wordAt (t.addrOf base r) = if r = 15 then s.ia + 12 else s.readReg r) ∧
          ∀ b : Word, (∀ r : RegIx, t.list.getLsbD r.toNat = true → 4 ≤ (b - t.addrOf base r).toNat) →
            u.mem.byteAt b = s.mem.byteAt b) ∧
        (t.w = true → t.rn ≠ 15 → u.readReg t.rn = t.final base) ∧
        (if t.w = true ∧ t.rn = 15 then (s.beforeRefill i).RefilledAt u (t.final base)
          else s.AdvancesTo u) ∧
        s.KeepsRegsBut u [if t.w = true then bank s.cpsr.mode t.rn else none] ∧
        u.cpsr = s.cpsr ∧ u.spsr = s.spsr ∧ u.icycles = s.icycles ∧ s.KeepsRun u

/-- R280: STMDB with writeback followed by LDMIA with writeback of the same list restores every register, the base
included, whatever the instruction is at which the pair stands, where the words of the block and the two prefetches are in
the flat memory (log entries 3 and 4, DESIGN CHOICE). -/
def Obligations.PushThenPopRestores : Prop :=
  ∀ (f : BlockFields) (s : State), f.w = true → f.rn ≠ 15 → f.list.getLsbD f.rn.toNat = false →
    f.list.getLsbD 15 = false → conditionPassed f.cond s.cpsr = true → s.Executing →
    (∀ x ∈ s.ownAccesses (.stmdb f), s.launch.plainAccess x = true) → s.launch.device (s.ia + 12) = false →
      ∃ s1 s2, exec (.stmdb f) s = .next s1 ∧ exec (.ldmia f) s1 = .next s2 ∧ s2.regs = s.regs ∧
        (∀ b, s2.mem.byteAt b = s1.mem.byteAt b) ∧ s2.cpsr = s.cpsr ∧ s2.ia = s.ia + 8

/-! ### Memory -/

/-- R53: the byte order, for aligned addresses: what word, halfword and byte reads return after a write, and that a write
changes no other byte; of the addresses the launch leaves to the flat memory (log entry 4, DESIGN CHOICE). -/
def Obligations.LittleEndian : Prop :=
  ∀ (s : State) (a v b : Word),
    (aligned .word a = true → (∀ k < 4, s.launch.device (a + BitVec.ofNat 32 k) = false) →
      (s.busWrite .word a v).busReadValue .word a = v ∧
      (∀ k < 4, (s.busWrite .word a v).busReadValue .byte (a + BitVec.ofNat 32 k) =
        (v.extractLsb' (8 * k) 8).setWidth 32) ∧
      (4 ≤ (b - a).toNat → s.launch.device b = false →
        (s.busWrite .word a v).busReadValue .byte b = s.busReadValue .byte b) ∧
      ∀ k < 4, (s.busReadValue .word a).extractLsb' (8 * k) 8 = s.mem.byteAt (a + BitVec.ofNat 32 k)) ∧
    (aligned .half a = true → (∀ k < 2, s.launch.device (a + BitVec.ofNat 32 k) = false) →
      (s.busWrite .half a v).busReadValue .half a = (v.setWidth 16).setWidth 32 ∧
      (∀ k < 2, (s.busWrite .half a v).busReadValue .byte (a + BitVec.ofNat 32 k) =
        (v.extractLsb' (8 * k) 8).setWidth 32) ∧
      (2 ≤ (b - a).toNat → s.launch.device b = false →
        (s.busWrite .half a v).busReadValue .byte b = s.busReadValue .byte b) ∧
      ∀ k < 2, (s.busReadValue .half a).extractLsb' (8 * k) 8 = s.mem.byteAt (a + BitVec.ofNat 32 k)) ∧
    (s.launch.device a = false →
      (s.busWrite .byte a v).busReadValue .byte a = (v.setWidth 8).setWidth 32 ∧
      (b ≠ a → s.launch.device b = false → (s.busWrite .byte a v).busReadValue .byte b = s.busReadValue .byte b))

/-- R54 and R67: an instruction has no step exactly when its condition passes, it raises no error, and one of its data
accesses is a misaligned one outside every window under `Misaligned.stuck`; with no window that is every misaligned access,
as on `FlatBus`; without `Misaligned.stuck`, none. A read of the flat memory has no side effect. The windows and the choice
are log entries 3 and 4 (DESIGN CHOICE). -/
def Obligations.ReferenceBus : Prop :=
  (∀ (i : Instr) (s : State),
    exec i s = .fault .busStuck ↔
      conditionPassed i.cond s.cpsr = true ∧ s.errorOf (describe i) = none ∧
        ∃ x ∈ s.dataAccesses (describe i), s.launch.stuckAccess x = true) ∧
  (∀ (w : Width) (a : Word), Launch.flatBus.stuckAt w a = true ↔ aligned w a = false) ∧
  (∀ (l : Launch) (w : Width) (a : Word), l.misaligned = .free → l.stuckAt w a = false) ∧
  ∀ (s : State) (w : Width) (a : Word), aligned w a = true → s.launch.device a = false →
    (s.afterRead w a).mem = s.mem ∧ (s.afterRead w a).dev = s.dev

/-! ### Rules of the whole machine -/

/-- R106 with R112 and R114: an instruction that completes with its condition passed flushes if and only if it writes
R15, is a branch or enters an exception; otherwise it advances, keeping the prefetched words. What the clause on the
refilled words says of the flat memory is log entry 4 (DESIGN CHOICE). -/
def Obligations.FlushExactlyWhenR15IsWritten : Prop :=
  ∀ (i : Instr) (s t : State), conditionPassed i.cond s.cpsr = true → exec i s = .next t →
    ((describe i).flushes = false → s.AdvancesTo t) ∧
    ((describe i).flushes = true →
      (t.cpsr.t = false → ∃ target, (s.beforeRefill i).RefilledAt t target) ∧
      (t.cpsr.t = true → ∃ target, s.RefusedAt t target))

/-- R56, R111, R114, R227 and R271: an instruction makes exactly these bus calls, in this order, each seeing what those
before it left: the prefetch at `IA + 8`, its data accesses when the condition passes, and the two refill reads of a flush in
ARM state; an instruction that raises an error, the prefetch only. A write passes the low 8, 16 or 32 bits of the value,
whatever the address, and what a call that does not go to the flat memory returns and changes is the bus's answer. Which
calls go to the flat memory, and that the answer to any other is `Config.busRead` or `Config.busWrite`, is the model's
choice: log entry 4, and for a misaligned call log entry 3 (DESIGN CHOICE). -/
def Obligations.BusAccessesAreExactlyThese : Prop :=
  (∀ (i : Instr) (s : State),
    (∀ t, exec i s = .next t → t.BusIs (s.busAfter (s.accesses i t))) ∧
    ∀ e faulted, exec i s = .fault (.raised e faulted) → faulted.BusIs (s.busAfter [.read .word (s.ia + 8)])) ∧
  (∀ (b : State) (w : Width) (a v passed : Word),
    passed = (match w with
      | .byte => (v.extractLsb' 0 8).setWidth 32
      | .half => (v.extractLsb' 0 16).setWidth 32
      | .word => v) →
      ((Access.write w a v).apply b).busLog = { op := .write, width := w, addr := a, value := passed } :: b.busLog ∧
      (b.launch.plain w a = false →
        ((Access.write w a v).apply b).mem = b.mem.setBytes (Config.busWrite b.steps w a passed b.mem b.dev).changes ∧
        ((Access.write w a v).apply b).dev = (Config.busWrite b.steps w a passed b.mem b.dev).dev)) ∧
  ∀ (b : State) (w : Width) (a : Word),
    ((Access.read w a).apply b).busLog =
      { op := .read, width := w, addr := a, value := b.busReadValue w a } :: b.busLog ∧
    (b.launch.plain w a = false →
      b.busReadValue w a = busValue w (Config.busRead b.steps w a b.mem b.dev).1 ∧
      ((Access.read w a).apply b).mem = b.mem.setBytes (Config.busRead b.steps w a b.mem b.dev).2.changes ∧
      ((Access.read w a).apply b).dev = (Config.busRead b.steps w a b.mem b.dev).2.dev)

/-- R350: every increment of the internal-cycle counter. -/
def Obligations.InternalCyclesAreExactlyThese : Prop :=
  ∀ (i : Instr) (s : State),
    (∀ t, exec i s = .next t →
      t.icycles =
        s.icycles + if conditionPassed i.cond s.cpsr = true then (describe i).internalCycles else 0) ∧
    ∀ e faulted, exec i s = .fault (.raised e faulted) → faulted.icycles = s.icycles

/-- R23 and R326: a step changes the mode only by MSR to the CPSR, by SWI, by the enabled copy of the SPSR, or by the entry
of an interrupt requested at its boundary. -/
def Obligations.ModeChangesOnlyByTheseFour : Prop :=
  ∀ (s t : State) (i : Instr) (q : Lines), step s = .next t → t.cpsr.mode ≠ s.cpsr.mode → i = decodeWord s.qcur →
    q = s.launch.interruptSource (s.steps + 1) →
      (conditionPassed i.cond s.cpsr = true ∧
        ((∃ rm, describe i = .msr false rm) ∨ describe i = .swi ∨ s.restoresStatus (describe i) = true)) ∨
      (q.fiq = true ∧ t.cpsr.mode = .fiq) ∨ (q.irq = true ∧ t.cpsr.mode = .irq)

/-- R33 and R297: an instruction changes T only if it is BX, MSR to the CPSR, SWI or an enabled copy of the SPSR, and SWI
only clears it. -/
def Obligations.ExecutionStateWriters : Prop :=
  ∀ (i : Instr) (s t : State), exec i s = .next t → t.cpsr.t ≠ s.cpsr.t →
    conditionPassed i.cond s.cpsr = true ∧
      ((∃ rn, describe i = .branchExchange rn ∧ t.cpsr.t = (s.readReg rn).getLsbD 0) ∨
        (∃ rm, describe i = .msr false rm ∧ t.cpsr.t = (s.readReg rm).getLsbD 5) ∨
        (s.restoresStatus (describe i) = true ∧ ∃ v, s.spsrCur = some v ∧ t.cpsr.t = v.getLsbD 5) ∨
        (describe i = .swi ∧ t.cpsr.t = false))

/-- R29: an instruction changes a saved status only if it is MSR to the SPSR, of the current mode, or SWI, of svc. -/
def Obligations.SavedStatusWriters : Prop :=
  ∀ (i : Instr) (s t : State) (m : Mode), exec i s = .next t → t.spsr.get m ≠ s.spsr.get m →
    conditionPassed i.cond s.cpsr = true ∧
      ((∃ rm, describe i = .msr true rm ∧ m = s.cpsr.mode ∧ t.spsr.get m = some (s.readReg rm)) ∨
        (describe i = .swi ∧ m = .svc ∧ t.spsr.get m = some s.cpsr.toWord))

/-- R31: no load, store, block transfer, branch or SWI writes N, Z, C or V; nor does MSR to the SPSR. -/
def Obligations.FlagsAreNotWrittenBy : Prop :=
  ∀ (i : Instr) (s t : State), exec i s = .next t →
    ((∃ x, describe i = .single x) ∨ (∃ b x, describe i = .block b x) ∨ (∃ l x, describe i = .branch l x) ∨
      (∃ rn, describe i = .branchExchange rn) ∨ describe i = .swi ∨ ∃ rm, describe i = .msr true rm) →
      t.cpsr.n = s.cpsr.n ∧ t.cpsr.z = s.cpsr.z ∧ t.cpsr.c = s.cpsr.c ∧ t.cpsr.v = s.cpsr.v

/-- R22: no instruction reaches a general register of another mode, but for SWI, which writes `R14_svc`. -/
def Obligations.OtherModesRegistersAreOutOfReach : Prop :=
  ∀ (i : Instr) (s t : State) (p : PhysReg), exec i s = .next t → (∀ j, bank s.cpsr.mode j ≠ some p) →
    ¬(describe i = .swi ∧ p = .lr .svc) → t.regs.get p = s.regs.get p

/-- R63 and R347: two instructions that both advance, with no interrupt: the next two words to execute were fetched before
any store of the first instruction, and after a flush to the flat memory (log entry 4, DESIGN CHOICE) both words come from
it as the instruction left it. -/
def Obligations.StoresBehindThePrefetch : Prop :=
  (∀ s t u : State, (∀ n, s.launch.interruptSource n = { irq := false, fiq := false }) →
    step s = .next t → step t = .next u →
    ¬(conditionPassed (decodeWord s.qcur).cond s.cpsr = true ∧ (describe (decodeWord s.qcur)).flushes = true) →
    ¬(conditionPassed (decodeWord t.qcur).cond t.cpsr = true ∧ (describe (decodeWord t.qcur)).flushes = true) →
      t.ia = s.ia + 4 ∧ t.qcur = s.qnext ∧ u.ia = s.ia + 8 ∧ u.qcur = s.busReadValue .word (s.ia + 8)) ∧
  (∀ s t : State, (∀ n, s.launch.interruptSource n = { irq := false, fiq := false }) → step s = .next t →
    conditionPassed (decodeWord s.qcur).cond s.cpsr = true → (describe (decodeWord s.qcur)).flushes = true →
    t.cpsr.t = false → s.launch.device t.ia = false → s.launch.device (t.ia + 4) = false →
      t.qcur = t.mem.wordAt t.ia ∧ t.qnext = t.mem.wordAt (t.ia + 4))

/-! ### Reset, the invariant, banks and images -/

/-- R340, R342 and R40: the state after reset, for every draw and launch, the state of the bus at launch included: the two bus reads are the
refill's, and from the flat memory they change nothing (R342; the flat memory is log entry 4, DESIGN CHOICE). -/
def Obligations.ResetState : Prop :=
  ∀ (d : ResetDraw) (launch : Launch) (b s : State), b = d.beforeRefill launch → s = resetProcedure d launch →
    s.cpsr.mode = .svc ∧ s.cpsr.i = true ∧ s.cpsr.f = true ∧ s.cpsr.t = false ∧ s.ia = 0 ∧ s.pcf = 8 ∧
    s.icycles = 0 ∧ s.err = none ∧ s.refused = false ∧ s.regs = d.regs ∧ s.spsr = d.spsr ∧
    s.cpsr.n = d.n ∧ s.cpsr.z = d.z ∧ s.cpsr.c = d.c ∧ s.cpsr.v = d.v ∧ s.cpsr.reserved = d.reserved ∧
    s.launch = launch ∧ s.steps = 0 ∧ b.mem = launch.mem ∧ b.dev = launch.dev ∧ b.busLog = [] ∧
    s.qcur = b.busReadValue .word 0 ∧ s.qnext = (b.afterRead .word 0).busReadValue .word 4 ∧
    s.BusIs (b.busAfter [.read .word 0, .read .word 4]) ∧
    (launch.device 0 = false → launch.device 4 = false →
      s.qcur = launch.mem.wordAt 0 ∧ s.qnext = launch.mem.wordAt 4 ∧ s.mem = launch.mem ∧ s.dev = launch.dev)

/-- R343: every state that `Reset` produces satisfies `CleanLaunch`: all of it but the two words for every bus, and these
where the two reads of the refill have no side effect, at addresses 0 and 4 of the flat memory (log entry 19, DEDUCED). -/
def Obligations.ResetIsACleanLaunch : Prop :=
  ∀ (d : ResetDraw) (launch : Launch) (s : State), s = resetProcedure d launch →
    (s.err = none ∧ s.refused = false ∧ s.cpsr.t = false ∧ s.ia.extractLsb 1 0 = 0 ∧ s.pcf = s.ia + 8) ∧
    (launch.device 0 = false → launch.device 4 = false → s.CleanLaunch)

/-- Every step keeps the invariant of a run: canonical memory, no recorded error, and either the refused THUMB state or an
aligned instruction with `PCF = IA + 8` (R24, R25, R37, R55, R114). -/
def Obligations.EveryStepKeepsCoherence : Prop :=
  ∀ s t : State, s.Coherent → step s = .next t → t.Coherent

/-- The invariant holds after reset, whatever the draw, the launch and a canonical memory; and at the model's own reset
state, which is a clean launch too (its draw is log entry 1, its memory log entry 2, its bus log entry 4: the model's
choice). -/
def Obligations.ResetIsCoherent : Prop :=
  (∀ (d : ResetDraw) (launch : Launch), launch.mem.wf → (resetProcedure d launch).Coherent) ∧
    State.reset.Coherent ∧ State.reset.CleanLaunch

/-- R22: the bank table, what an index names in each mode. -/
def Obligations.BankTable : Prop :=
  (∀ (m : Mode) (k : Fin 8), bank m (BitVec.ofNat 4 k.val) = some (.low k)) ∧
  (∀ (m : Mode) (k : Fin 5), bank m (BitVec.ofNat 4 (8 + k.val)) =
    some (if m = .fiq then .fiqHigh k else .usrHigh k)) ∧
  (∀ m : Mode, bank m 13 = some (.sp m.bank) ∧ bank m 14 = some (.lr m.bank) ∧ bank m 15 = none) ∧
  Mode.usr.bank = .usr ∧ Mode.sys.bank = .usr ∧ Mode.fiq.bank = .fiq ∧ Mode.irq.bank = .irq ∧ Mode.svc.bank = .svc ∧
  Mode.abt.bank = .abt ∧ Mode.und.bank = .und

/-- R27, R28 and R32: a PSR and its 32 bits are one another's images; a word has one exactly when its mode field is one of
the seven, by the table of R28; every bit has the place R27 gives it. -/
def Obligations.StatusImages : Prop :=
  (∀ p : Psr, Psr.ofWord p.toWord = some p) ∧
  (∀ w : Word, (∃ p, Psr.ofWord w = some p ∧ p.toWord = w) ↔
    bits w 4 0 ∈ [0b10000, 0b10001, 0b10010, 0b10011, 0b10111, 0b11011, 0b11111]) ∧
  (∀ p : Psr, p.toWord.getLsbD 31 = p.n ∧ p.toWord.getLsbD 30 = p.z ∧ p.toWord.getLsbD 29 = p.c ∧
    p.toWord.getLsbD 28 = p.v ∧ bits p.toWord 27 8 = p.reserved ∧ p.toWord.getLsbD 7 = p.i ∧
    p.toWord.getLsbD 6 = p.f ∧ p.toWord.getLsbD 5 = p.t ∧ bits p.toWord 4 0 = p.mode.bits) ∧
  [Mode.usr, .fiq, .irq, .svc, .abt, .und, .sys].map Mode.bits =
    [0b10000, 0b10001, 0b10010, 0b10011, 0b10111, 0b11011, 0b11111]

/-! ### Launches outside the spec -/

/-- R343 and R344 (U21 of 93_implementation_defined.md): a state outside the spec has no step. Those are a state whose
`PCF` is not `IA + 8` or whose `IA` is not word-aligned, and a launch that is not a state `Reset` produces and whose
prefetched words are not what the bus would return now. So of the launches on a bus that is flat at 0 and 4 (log entry 4,
DESIGN CHOICE) exactly those that break `CleanLaunch` have no step, and on any bus only such. That a launch is a state with
no step completed is log entry 18 (DESIGN CHOICE); that a reset state is accepted where `CleanLaunch` does not follow, log
entry 19 (DEDUCED). -/
def Obligations.LaunchOutsideTheSpecHasNoStep : Prop :=
  (∀ s : State, step s = .fault .brokenLaunch ↔
    (s.err = none ∧ s.refused = false ∧ s.launch.stopAddress ≠ some s.ia ∧ s.cpsr.t = false) ∧
      (s.pcf ≠ s.ia + 8 ∨ s.ia.extractLsb 1 0 ≠ 0 ∨
        s.steps = 0 ∧ (s.qcur ≠ s.busReadValue .word s.ia ∨ s.qnext ≠ s.busReadValue .word (s.ia + 4)) ∧
          ¬∃ d, s = resetProcedure d s.launch)) ∧
  (∀ s : State, s.steps = 0 → s.launch.device 0 = false → s.launch.device 4 = false →
    s.launch.stopAddress ≠ some s.ia → s.err = none → s.refused = false → s.cpsr.t = false →
      (step s = .fault .brokenLaunch ↔ ¬s.CleanLaunch)) ∧
  (∀ s : State, s.CleanLaunch → step s ≠ .fault .brokenLaunch) ∧
  ∀ (d : ResetDraw) (launch : Launch), step (resetProcedure d launch) ≠ .fault .brokenLaunch

/-! ### The opcode table -/

/-- R95 and R72: the opcode table and the decoder agree. The first row that matches a word is that of the decoded
instruction, with the line of R72 that selects it and its class; every row applies to some word; no mask has a bit of the
condition; the rows stand in the order of R72's lines; and only rows of lines 9f, 12 and 13 match words that an earlier row
also matches. -/
def Obligations.FirstMatchingRowApplies : Prop :=
  (∀ w : Word, firstRow w = some (decodeWord w).row ∧
    ∃ r, opcodeTable[(decodeWord w).row]? = some r ∧ r.line = decodeLine w ∧ r.line.cls = (decodeWord w).cls) ∧
  opcodeTable.length = 124 ∧ (∀ k < 124, ∃ w : Word, firstRow w = some k) ∧
  (∀ r ∈ opcodeTable, bits r.mask 31 28 = 0) ∧
  (opcodeTable.map fun r => r.line).eraseReps =
    [.l1, .l2, .l3, .l4, .l5, .l6, .l7, .l8, .l9a, .l9b, .l9c, .l9d, .l9e, .l9f, .l10, .l11, .l12, .l13, .l14] ∧
  opcodeTable.Pairwise fun earlier r =>
    (∃ w : Word, earlier.covers w = true ∧ r.covers w = true) → r.line = .l9f ∨ r.line = .l12 ∨ r.line = .l13
end

