-- ==== Sys2Proof/Laws/Memory.lean ====
section
/-! SUPPORT. Memory: a read after a write, and the canonical form every write keeps. -/

namespace Sys2Proof.Laws

open Sys2Proof.Machine

/-! ### One byte -/

theorem get_erase (m : Memory) (a x : Nat) :
    Memory.get (Memory.erase m a) x = if a = x then Memory.background x else Memory.get m x := by
  induction m with
  | nil => simp [Memory.erase, Memory.get]
  | cons e m ih =>
    obtain ⟨k, b⟩ := e
    by_cases hk : k = a
    · subst hk
      rw [Memory.erase, if_pos rfl, ih, Memory.get]
      split <;> rfl
    · rw [Memory.erase, if_neg hk, Memory.get, Memory.get, ih]
      split <;> split <;> first | rfl | omega

theorem get_insert (m : Memory) (a x : Nat) (b : Byte) (hm : ∀ e ∈ m, e.1 ≠ a) :
    Memory.get (Memory.insert m a b) x = if a = x then b else Memory.get m x := by
  induction m with
  | nil => simp [Memory.insert, Memory.get]
  | cons e m ih =>
    obtain ⟨k, c⟩ := e
    have hk : k ≠ a := hm (k, c) (by simp)
    have ih := ih fun e he => hm e (List.mem_cons_of_mem _ he)
    rw [Memory.insert]
    split
    · rw [Memory.get]
    · rw [Memory.get, ih, Memory.get]
      split <;> split <;> first | rfl | omega

theorem not_mem_erase (m : Memory) (a : Nat) : ∀ e ∈ Memory.erase m a, e.1 ≠ a := by
  induction m with
  | nil => simp [Memory.erase]
  | cons e m ih =>
    obtain ⟨k, b⟩ := e
    rw [Memory.erase]
    split
    · exact ih
    · rename_i hk
      intro e he
      rcases List.mem_cons.mp he with rfl | he
      · exact hk
      · exact ih e he

/-- A read after a write of one byte: the byte written there, and everything else as before. -/
theorem get_set (m : Memory) (a x : Nat) (b : Byte) :
    Memory.get (Memory.set m a b) x = if a = x then b else Memory.get m x := by
  unfold Memory.set
  split
  · rename_i hb
    rw [get_erase]
    split
    · rename_i h; subst h; exact hb.symm
    · rfl
  · rw [get_insert _ _ _ _ (not_mem_erase m a), get_erase]
    split <;> rfl

@[simp] theorem byteAt_setByte_same (m : Memory) (a : Word) (b : Byte) : (m.setByte a b).byteAt a = b := by
  simp [Memory.byteAt, Memory.setByte, get_set]

theorem byteAt_setByte (m : Memory) (a x : Word) (b : Byte) :
    (m.setByte a b).byteAt x = if a = x then b else m.byteAt x := by
  simp [Memory.byteAt, Memory.setByte, get_set, BitVec.toNat_inj]

theorem byteAt_setByte_other {m : Memory} {a x : Word} {b : Byte} (h : a ≠ x) :
    (m.setByte a b).byteAt x = m.byteAt x := by
  rw [byteAt_setByte, if_neg h]

/-! ### Halfwords and words -/

/-- The bytes a halfword write leaves (R53). -/
theorem byteAt_setHalf (m : Memory) (a x : Word) (v : Half) :
    (m.setHalf a v).byteAt x =
      if x = a then v.extractLsb 7 0 else if x = a + 1 then v.extractLsb 15 8 else m.byteAt x := by
  simp only [Memory.setHalf, byteAt_setByte]
  have h1 : a + 1 ≠ a := by bv_omega
  by_cases h : x = a
  · subst h; simp
  · by_cases h' : x = a + 1
    · subst h'; simp
    · rw [if_neg (Ne.symm h'), if_neg (Ne.symm h), if_neg h, if_neg h']

/-- The bytes a word write leaves (R53). -/
theorem byteAt_setWord (m : Memory) (a x v : Word) :
    (m.setWord a v).byteAt x =
      if x = a then v.extractLsb 7 0 else if x = a + 1 then v.extractLsb 15 8
      else if x = a + 2 then v.extractLsb 23 16 else if x = a + 3 then v.extractLsb 31 24 else m.byteAt x := by
  simp only [Memory.setWord, byteAt_setByte]
  by_cases h0 : x = a
  · subst h0; simp
  by_cases h1 : x = a + 1
  · subst h1; simp
  by_cases h2 : x = a + 2
  · subst h2; simp
  by_cases h3 : x = a + 3
  · subst h3; simp
  rw [if_neg (Ne.symm h3), if_neg (Ne.symm h2), if_neg (Ne.symm h1), if_neg (Ne.symm h0), if_neg h0, if_neg h1, if_neg h2,
    if_neg h3]

/-- A word read after a word write at the same address. -/
theorem wordAt_setWord (m : Memory) (a v : Word) : (m.setWord a v).wordAt a = v := by
  have e1 : a + 1 ≠ a := by bv_omega
  have e2 : a + 2 ≠ a := by bv_omega
  have e3 : a + 3 ≠ a := by bv_omega
  have e4 : a + 2 ≠ a + 1 := by bv_omega
  have e5 : a + 3 ≠ a + 1 := by bv_omega
  have e6 : a + 3 ≠ a + 2 := by bv_omega
  simp only [Memory.wordAt, byteAt_setWord, e1, e2, e3, e4, e5, e6, if_true, if_false]
  apply BitVec.eq_of_getLsbD_eq
  intro i hi
  simp only [BitVec.getLsbD_append, BitVec.getLsbD_extractLsb]
  interval_cases i <;> simp

/-- A halfword read after a halfword write at the same address. -/
theorem halfAt_setHalf (m : Memory) (a : Word) (v : Half) : (m.setHalf a v).halfAt a = v := by
  have e1 : a + 1 ≠ a := by bv_omega
  simp only [Memory.halfAt, byteAt_setHalf, e1, if_true, if_false]
  apply BitVec.eq_of_getLsbD_eq
  intro i hi
  simp only [BitVec.getLsbD_append, BitVec.getLsbD_extractLsb]
  interval_cases i <;> simp

/-! ### The canonical form -/

theorem mem_erase {m : Memory} {a : Nat} {e : Host.Cell} (h : e ∈ Memory.erase m a) : e ∈ m := by
  induction m with
  | nil => simp [Memory.erase] at h
  | cons f m ih =>
    obtain ⟨k, b⟩ := f
    rw [Memory.erase] at h
    split at h
    · exact List.mem_cons_of_mem _ (ih h)
    · rcases List.mem_cons.mp h with rfl | h
      · simp
      · exact List.mem_cons_of_mem _ (ih h)

theorem mem_insert {m : Memory} {a : Nat} {b : Byte} {e : Host.Cell} (h : e ∈ Memory.insert m a b) :
    e = (a, b) ∨ e ∈ m := by
  induction m with
  | nil => simpa [Memory.insert] using h
  | cons f m ih =>
    obtain ⟨k, c⟩ := f
    rw [Memory.insert] at h
    split at h
    · rcases List.mem_cons.mp h with h | h
      · exact .inl h
      · exact .inr h
    · rcases List.mem_cons.mp h with h | h
      · exact .inr (by simp [h])
      · exact (ih h).imp id (List.mem_cons_of_mem _)

theorem pairwise_erase {m : Memory} (a : Nat) (h : m.Pairwise fun x y => x.1 < y.1) :
    (Memory.erase m a).Pairwise fun x y => x.1 < y.1 := by
  induction m with
  | nil => simp [Memory.erase]
  | cons e m ih =>
    obtain ⟨k, b⟩ := e
    rw [List.pairwise_cons] at h
    rw [Memory.erase]
    split
    · exact ih h.2
    · exact List.pairwise_cons.mpr ⟨fun y hy => h.1 y (mem_erase hy), ih h.2⟩

theorem pairwise_insert {m : Memory} (a : Nat) (b : Byte) (h : m.Pairwise fun x y => x.1 < y.1)
    (hm : ∀ e ∈ m, e.1 ≠ a) : (Memory.insert m a b).Pairwise fun x y => x.1 < y.1 := by
  induction m with
  | nil => simp [Memory.insert]
  | cons e m ih =>
    obtain ⟨k, c⟩ := e
    have hk : k ≠ a := hm (k, c) (by simp)
    have h' := List.pairwise_cons.mp h
    rw [Memory.insert]
    split
    · rename_i hak
      refine List.pairwise_cons.mpr ⟨fun y hy => ?_, h⟩
      rcases List.mem_cons.mp hy with rfl | hy
      · exact hak
      · exact Nat.lt_trans hak (h'.1 y hy)
    · rename_i hak
      refine List.pairwise_cons.mpr ⟨fun y hy => ?_, ih h'.2 fun e he => hm e (List.mem_cons_of_mem _ he)⟩
      rcases mem_insert hy with rfl | hy
      · show k < a; omega
      · exact h'.1 y hy

/-- A byte write keeps the canonical form. -/
theorem wf_set {m : Memory} {a : Nat} {b : Byte} (ha : a < 2 ^ 32) (h : m.wf) : (Memory.set m a b).wf := by
  unfold Memory.set
  split
  · exact ⟨pairwise_erase a h.1, fun x hx => h.2 x (mem_erase hx)⟩
  · rename_i hb
    refine ⟨pairwise_insert a b (pairwise_erase a h.1) (not_mem_erase m a), fun x hx => ?_⟩
    rcases mem_insert hx with rfl | hx
    · exact ⟨ha, hb⟩
    · exact h.2 x (mem_erase hx)

theorem wf_setByte {m : Memory} (a : Word) (b : Byte) (h : m.wf) : (m.setByte a b).wf := wf_set a.isLt h

theorem wf_setHalf {m : Memory} (a : Word) (v : Half) (h : m.wf) : (m.setHalf a v).wf :=
  wf_setByte _ _ (wf_setByte _ _ h)

theorem wf_setWord {m : Memory} (a v : Word) (h : m.wf) : (m.setWord a v).wf :=
  wf_setByte _ _ (wf_setByte _ _ (wf_setByte _ _ (wf_setByte _ _ h)))

theorem wf_setBytes {m : Memory} (l : List (Word × Byte)) (h : m.wf) : (m.setBytes l).wf := by
  induction l generalizing m with
  | nil => exact h
  | cons e l ih => exact ih (wf_setByte _ _ h)

/-- Every bus read keeps the canonical form, whatever its side effects. -/
theorem wf_busReadMem {s : State} (w : Width) (a : Word) (h : s.mem.wf) : (s.busReadMem w a).wf := by
  unfold State.busReadMem
  split
  · exact h
  · exact wf_setBytes _ h

/-- Every bus write keeps the canonical form, whatever its effects. -/
theorem wf_busWriteMem {s : State} (w : Width) (a v : Word) (h : s.mem.wf) : (s.busWriteMem w a v).wf := by
  unfold State.busWriteMem
  split
  · split
    · exact wf_setByte _ _ h
    · exact wf_setHalf _ _ h
    · exact wf_setWord _ _ h
  · exact wf_setBytes _ h

/-- Two canonical memories with the same bytes are equal data. -/
theorem wf_ext {m n : Memory} (hm : m.wf) (hn : n.wf) (h : ∀ a, Memory.get m a = Memory.get n a) : m = n := by
  have absent : ∀ (l : Memory) (a : Nat), (∀ e ∈ l, a < e.1) → Memory.get l a = Memory.background a := by
    intro l a hl
    induction l with
    | nil => rfl
    | cons e l ih =>
      obtain ⟨k, b⟩ := e
      have : a < k := hl (k, b) (by simp)
      rw [Memory.get, if_neg (by omega)]
      exact ih fun e he => hl e (List.mem_cons_of_mem _ he)
  induction m generalizing n with
  | nil =>
    cases n with
    | nil => rfl
    | cons e n =>
      obtain ⟨k, b⟩ := e
      have := h k
      rw [Memory.get, Memory.get, if_pos rfl] at this
      exact absurd this.symm (hn.2 (k, b) (by simp)).2
  | cons e m ih =>
    obtain ⟨k, b⟩ := e
    cases n with
    | nil =>
      have := h k
      rw [Memory.get, Memory.get, if_pos rfl] at this
      exact absurd this (hm.2 (k, b) (by simp)).2
    | cons f n =>
      obtain ⟨j, c⟩ := f
      have pm := List.pairwise_cons.mp hm.1
      have pn := List.pairwise_cons.mp hn.1
      have hk : k = j := by
        rcases Nat.lt_trichotomy k j with hlt | heq | hgt
        · have := h k
          rw [Memory.get, if_pos rfl, Memory.get, if_neg (by omega),
            absent n k fun e he => Nat.lt_trans hlt (pn.1 e he)] at this
          exact absurd this (hm.2 (k, b) (by simp)).2
        · exact heq
        · have := h j
          rw [Memory.get, if_neg (by omega), Memory.get, if_pos rfl,
            absent m j fun e he => Nat.lt_trans hgt (pm.1 e he)] at this
          exact absurd this.symm (hn.2 (j, c) (by simp)).2
      subst hk
      have hb : b = c := by simpa [Memory.get] using h k
      subst hb
      congr 1
      refine ih ⟨pm.2, fun x hx => hm.2 x (List.mem_cons_of_mem _ hx)⟩ ⟨pn.2, fun x hx => hn.2 x (List.mem_cons_of_mem _ hx)⟩ ?_
      intro a
      have := h a
      rw [Memory.get, Memory.get] at this
      by_cases hak : k = a
      · subst hak
        rw [absent m k pm.1, absent n k pn.1]
      · rwa [if_neg hak, if_neg hak] at this

end Sys2Proof.Laws
end

