-- ==== Sys2Proof/Laws/State.lean ====
section
/-! SUPPORT. One lemma per field for every update of the state that the shared operations make, so that no proof unfolds
a record update. -/

namespace Sys2Proof.Laws

open Sys2Proof.Machine

/-! ### A bus read -/

@[simp] theorem afterRead_regs (s : State) (w : Width) (a : Word) : (s.afterRead w a).regs = s.regs := rfl
@[simp] theorem afterRead_pcf (s : State) (w : Width) (a : Word) : (s.afterRead w a).pcf = s.pcf := rfl
@[simp] theorem afterRead_ia (s : State) (w : Width) (a : Word) : (s.afterRead w a).ia = s.ia := rfl
@[simp] theorem afterRead_cpsr (s : State) (w : Width) (a : Word) : (s.afterRead w a).cpsr = s.cpsr := rfl
@[simp] theorem afterRead_spsr (s : State) (w : Width) (a : Word) : (s.afterRead w a).spsr = s.spsr := rfl
@[simp] theorem afterRead_qcur (s : State) (w : Width) (a : Word) : (s.afterRead w a).qcur = s.qcur := rfl
@[simp] theorem afterRead_qnext (s : State) (w : Width) (a : Word) : (s.afterRead w a).qnext = s.qnext := rfl
@[simp] theorem afterRead_icycles (s : State) (w : Width) (a : Word) : (s.afterRead w a).icycles = s.icycles := rfl
@[simp] theorem afterRead_err (s : State) (w : Width) (a : Word) : (s.afterRead w a).err = s.err := rfl
@[simp] theorem afterRead_refused (s : State) (w : Width) (a : Word) : (s.afterRead w a).refused = s.refused := rfl
@[simp] theorem afterRead_mem (s : State) (w : Width) (a : Word) : (s.afterRead w a).mem = s.busReadMem w a := rfl
@[simp] theorem afterRead_dev (s : State) (w : Width) (a : Word) : (s.afterRead w a).dev = s.busReadDev w a := rfl
@[simp] theorem afterRead_steps (s : State) (w : Width) (a : Word) : (s.afterRead w a).steps = s.steps := rfl
@[simp] theorem afterRead_busLog (s : State) (w : Width) (a : Word) : (s.afterRead w a).busLog = { op := .read, width := w, addr := a, value := s.busReadValue w a } :: s.busLog := rfl
@[simp] theorem afterRead_launch (s : State) (w : Width) (a : Word) : (s.afterRead w a).launch = s.launch := rfl

/-! ### A bus write -/

@[simp] theorem busWrite_regs (s : State) (w : Width) (a v : Word) : (s.busWrite w a v).regs = s.regs := rfl
@[simp] theorem busWrite_pcf (s : State) (w : Width) (a v : Word) : (s.busWrite w a v).pcf = s.pcf := rfl
@[simp] theorem busWrite_ia (s : State) (w : Width) (a v : Word) : (s.busWrite w a v).ia = s.ia := rfl
@[simp] theorem busWrite_cpsr (s : State) (w : Width) (a v : Word) : (s.busWrite w a v).cpsr = s.cpsr := rfl
@[simp] theorem busWrite_spsr (s : State) (w : Width) (a v : Word) : (s.busWrite w a v).spsr = s.spsr := rfl
@[simp] theorem busWrite_qcur (s : State) (w : Width) (a v : Word) : (s.busWrite w a v).qcur = s.qcur := rfl
@[simp] theorem busWrite_qnext (s : State) (w : Width) (a v : Word) : (s.busWrite w a v).qnext = s.qnext := rfl
@[simp] theorem busWrite_icycles (s : State) (w : Width) (a v : Word) : (s.busWrite w a v).icycles = s.icycles := rfl
@[simp] theorem busWrite_err (s : State) (w : Width) (a v : Word) : (s.busWrite w a v).err = s.err := rfl
@[simp] theorem busWrite_refused (s : State) (w : Width) (a v : Word) : (s.busWrite w a v).refused = s.refused := rfl
@[simp] theorem busWrite_mem (s : State) (w : Width) (a v : Word) : (s.busWrite w a v).mem = s.busWriteMem w a v := rfl
@[simp] theorem busWrite_dev (s : State) (w : Width) (a v : Word) : (s.busWrite w a v).dev = s.busWriteDev w a v := rfl
@[simp] theorem busWrite_steps (s : State) (w : Width) (a v : Word) : (s.busWrite w a v).steps = s.steps := rfl
@[simp] theorem busWrite_busLog (s : State) (w : Width) (a v : Word) : (s.busWrite w a v).busLog = { op := .write, width := w, addr := a, value := busValue w v } :: s.busLog := rfl
@[simp] theorem busWrite_launch (s : State) (w : Width) (a v : Word) : (s.busWrite w a v).launch = s.launch := rfl

/-! ### An internal cycle -/

@[simp] theorem chargeCycle_regs (s : State) : (s.chargeCycle).regs = s.regs := rfl
@[simp] theorem chargeCycle_pcf (s : State) : (s.chargeCycle).pcf = s.pcf := rfl
@[simp] theorem chargeCycle_ia (s : State) : (s.chargeCycle).ia = s.ia := rfl
@[simp] theorem chargeCycle_cpsr (s : State) : (s.chargeCycle).cpsr = s.cpsr := rfl
@[simp] theorem chargeCycle_spsr (s : State) : (s.chargeCycle).spsr = s.spsr := rfl
@[simp] theorem chargeCycle_qcur (s : State) : (s.chargeCycle).qcur = s.qcur := rfl
@[simp] theorem chargeCycle_qnext (s : State) : (s.chargeCycle).qnext = s.qnext := rfl
@[simp] theorem chargeCycle_icycles (s : State) : (s.chargeCycle).icycles = s.icycles + 1 := rfl
@[simp] theorem chargeCycle_err (s : State) : (s.chargeCycle).err = s.err := rfl
@[simp] theorem chargeCycle_refused (s : State) : (s.chargeCycle).refused = s.refused := rfl
@[simp] theorem chargeCycle_mem (s : State) : (s.chargeCycle).mem = s.mem := rfl
@[simp] theorem chargeCycle_dev (s : State) : (s.chargeCycle).dev = s.dev := rfl
@[simp] theorem chargeCycle_steps (s : State) : (s.chargeCycle).steps = s.steps := rfl
@[simp] theorem chargeCycle_busLog (s : State) : (s.chargeCycle).busLog = s.busLog := rfl
@[simp] theorem chargeCycle_launch (s : State) : (s.chargeCycle).launch = s.launch := rfl

/-! ### The advance -/

@[simp] theorem applyAdvance_regs (s : State) (fetched : Word) : (s.applyAdvance fetched).regs = s.regs := rfl
@[simp] theorem applyAdvance_pcf (s : State) (fetched : Word) : (s.applyAdvance fetched).pcf = s.ia + 4 + 8 := rfl
@[simp] theorem applyAdvance_ia (s : State) (fetched : Word) : (s.applyAdvance fetched).ia = s.ia + 4 := rfl
@[simp] theorem applyAdvance_cpsr (s : State) (fetched : Word) : (s.applyAdvance fetched).cpsr = s.cpsr := rfl
@[simp] theorem applyAdvance_spsr (s : State) (fetched : Word) : (s.applyAdvance fetched).spsr = s.spsr := rfl
@[simp] theorem applyAdvance_qcur (s : State) (fetched : Word) : (s.applyAdvance fetched).qcur = s.qnext := rfl
@[simp] theorem applyAdvance_qnext (s : State) (fetched : Word) : (s.applyAdvance fetched).qnext = fetched := rfl
@[simp] theorem applyAdvance_icycles (s : State) (fetched : Word) : (s.applyAdvance fetched).icycles = s.icycles := rfl
@[simp] theorem applyAdvance_err (s : State) (fetched : Word) : (s.applyAdvance fetched).err = s.err := rfl
@[simp] theorem applyAdvance_refused (s : State) (fetched : Word) : (s.applyAdvance fetched).refused = s.refused := rfl
@[simp] theorem applyAdvance_mem (s : State) (fetched : Word) : (s.applyAdvance fetched).mem = s.mem := rfl
@[simp] theorem applyAdvance_dev (s : State) (fetched : Word) : (s.applyAdvance fetched).dev = s.dev := rfl
@[simp] theorem applyAdvance_steps (s : State) (fetched : Word) : (s.applyAdvance fetched).steps = s.steps := rfl
@[simp] theorem applyAdvance_busLog (s : State) (fetched : Word) : (s.applyAdvance fetched).busLog = s.busLog := rfl
@[simp] theorem applyAdvance_launch (s : State) (fetched : Word) : (s.applyAdvance fetched).launch = s.launch := rfl

/-! ### The refill -/

@[simp] theorem refill_regs (s : State) (a : Word) : (s.refill a).regs = s.regs := rfl
@[simp] theorem refill_pcf (s : State) (a : Word) : (s.refill a).pcf = a + 8 := rfl
@[simp] theorem refill_ia (s : State) (a : Word) : (s.refill a).ia = a := rfl
@[simp] theorem refill_cpsr (s : State) (a : Word) : (s.refill a).cpsr = s.cpsr := rfl
@[simp] theorem refill_spsr (s : State) (a : Word) : (s.refill a).spsr = s.spsr := rfl
@[simp] theorem refill_qcur (s : State) (a : Word) : (s.refill a).qcur = s.busReadValue .word a := rfl
@[simp] theorem refill_qnext (s : State) (a : Word) : (s.refill a).qnext = (s.afterRead .word a).busReadValue .word (a + 4) := rfl
@[simp] theorem refill_icycles (s : State) (a : Word) : (s.refill a).icycles = s.icycles := rfl
@[simp] theorem refill_err (s : State) (a : Word) : (s.refill a).err = s.err := rfl
@[simp] theorem refill_refused (s : State) (a : Word) : (s.refill a).refused = s.refused := rfl
@[simp] theorem refill_mem (s : State) (a : Word) : (s.refill a).mem = (s.afterRead .word a).busReadMem .word (a + 4) := rfl
@[simp] theorem refill_dev (s : State) (a : Word) : (s.refill a).dev = (s.afterRead .word a).busReadDev .word (a + 4) := rfl
@[simp] theorem refill_steps (s : State) (a : Word) : (s.refill a).steps = s.steps := rfl
@[simp] theorem refill_busLog (s : State) (a : Word) : (s.refill a).busLog = { op := .read, width := .word, addr := a + 4, value := (s.afterRead .word a).busReadValue .word (a + 4) } ::
      { op := .read, width := .word, addr := a, value := s.busReadValue .word a } :: s.busLog := rfl
@[simp] theorem refill_launch (s : State) (a : Word) : (s.refill a).launch = s.launch := rfl

/-! ### A register write -/

@[simp] theorem writeReg_ia (s : State) (i : RegIx) (v : Word) : (s.writeReg i v).ia = s.ia := by
  unfold State.writeReg; split <;> rfl

@[simp] theorem writeReg_cpsr (s : State) (i : RegIx) (v : Word) : (s.writeReg i v).cpsr = s.cpsr := by
  unfold State.writeReg; split <;> rfl

@[simp] theorem writeReg_spsr (s : State) (i : RegIx) (v : Word) : (s.writeReg i v).spsr = s.spsr := by
  unfold State.writeReg; split <;> rfl

@[simp] theorem writeReg_qcur (s : State) (i : RegIx) (v : Word) : (s.writeReg i v).qcur = s.qcur := by
  unfold State.writeReg; split <;> rfl

@[simp] theorem writeReg_qnext (s : State) (i : RegIx) (v : Word) : (s.writeReg i v).qnext = s.qnext := by
  unfold State.writeReg; split <;> rfl

@[simp] theorem writeReg_icycles (s : State) (i : RegIx) (v : Word) : (s.writeReg i v).icycles = s.icycles := by
  unfold State.writeReg; split <;> rfl

@[simp] theorem writeReg_err (s : State) (i : RegIx) (v : Word) : (s.writeReg i v).err = s.err := by
  unfold State.writeReg; split <;> rfl

@[simp] theorem writeReg_refused (s : State) (i : RegIx) (v : Word) : (s.writeReg i v).refused = s.refused := by
  unfold State.writeReg; split <;> rfl

@[simp] theorem writeReg_mem (s : State) (i : RegIx) (v : Word) : (s.writeReg i v).mem = s.mem := by
  unfold State.writeReg; split <;> rfl

@[simp] theorem writeReg_dev (s : State) (i : RegIx) (v : Word) : (s.writeReg i v).dev = s.dev := by
  unfold State.writeReg; split <;> rfl

@[simp] theorem writeReg_steps (s : State) (i : RegIx) (v : Word) : (s.writeReg i v).steps = s.steps := by
  unfold State.writeReg; split <;> rfl

@[simp] theorem writeReg_busLog (s : State) (i : RegIx) (v : Word) : (s.writeReg i v).busLog = s.busLog := by
  unfold State.writeReg; split <;> rfl

@[simp] theorem writeReg_launch (s : State) (i : RegIx) (v : Word) : (s.writeReg i v).launch = s.launch := by
  unfold State.writeReg; split <;> rfl

/-! ### The flush (R114) -/

@[simp] theorem applyFlush_regs (s : State) : s.applyFlush.regs = s.regs := by
  unfold State.applyFlush; split <;> rfl

@[simp] theorem applyFlush_cpsr (s : State) : s.applyFlush.cpsr = s.cpsr := by
  unfold State.applyFlush; split <;> rfl

@[simp] theorem applyFlush_spsr (s : State) : s.applyFlush.spsr = s.spsr := by
  unfold State.applyFlush; split <;> rfl

@[simp] theorem applyFlush_icycles (s : State) : s.applyFlush.icycles = s.icycles := by
  unfold State.applyFlush; split <;> rfl

@[simp] theorem applyFlush_err (s : State) : s.applyFlush.err = s.err := by
  unfold State.applyFlush; split <;> rfl

@[simp] theorem applyFlush_steps (s : State) : s.applyFlush.steps = s.steps := by
  unfold State.applyFlush; split <;> rfl

@[simp] theorem applyFlush_launch (s : State) : s.applyFlush.launch = s.launch := by
  unfold State.applyFlush; split <;> rfl

/-- In ARM state the flush is the refill at `PCF` with bits 1:0 cleared. -/
theorem applyFlush_arm (s : State) (h : s.cpsr.t = false) : s.applyFlush = s.refill (s.pcf &&& 0xFFFFFFFC) := by
  simp [State.applyFlush, h]

/-- In THUMB state the flush refuses. -/
theorem applyFlush_thumb (s : State) (h : s.cpsr.t = true) :
    s.applyFlush = { s with ia := s.pcf, refused := true } := by
  simp [State.applyFlush, h]

/-! ### What reads of the state depend on -/

/-- What a bus access depends on, and what it changes: the bus, the count of steps and the launch. -/
structure SameBus (t s : State) : Prop where
  mem : t.mem = s.mem
  dev : t.dev = s.dev
  busLog : t.busLog = s.busLog
  steps : t.steps = s.steps
  launch : t.launch = s.launch

theorem SameBus.refl (s : State) : SameBus s s := ⟨rfl, rfl, rfl, rfl, rfl⟩

theorem SameBus.trans {u t s : State} (h : SameBus u t) (h' : SameBus t s) : SameBus u s :=
  ⟨h.mem.trans h'.mem, h.dev.trans h'.dev, h.busLog.trans h'.busLog, h.steps.trans h'.steps, h.launch.trans h'.launch⟩

theorem SameBus.symm {t s : State} (h : SameBus t s) : SameBus s t :=
  ⟨h.mem.symm, h.dev.symm, h.busLog.symm, h.steps.symm, h.launch.symm⟩

theorem SameBus.busReadValue {t s : State} (h : SameBus t s) (w : Width) (a : Word) :
    t.busReadValue w a = s.busReadValue w a := by
  simp [State.busReadValue, h.mem, h.dev, h.steps, h.launch]

theorem SameBus.afterRead {t s : State} (h : SameBus t s) (w : Width) (a : Word) :
    SameBus (t.afterRead w a) (s.afterRead w a) :=
  ⟨by simp [State.busReadMem, h.mem, h.dev, h.steps, h.launch], by simp [State.busReadDev, h.mem, h.dev, h.steps, h.launch],
    by simp [h.busLog, h.busReadValue], h.steps, h.launch⟩

theorem SameBus.busWrite {t s : State} (h : SameBus t s) (w : Width) (a v : Word) :
    SameBus (t.busWrite w a v) (s.busWrite w a v) :=
  ⟨by simp [State.busWriteMem, h.mem, h.dev, h.steps, h.launch], by simp [State.busWriteDev, h.mem, h.dev, h.steps, h.launch],
    by simp [h.busLog], h.steps, h.launch⟩

theorem SameBus.writeReg (s : State) (i : RegIx) (v : Word) : SameBus (s.writeReg i v) s :=
  ⟨by simp, by simp, by simp, by simp, by simp⟩

theorem SameBus.chargeCycle (s : State) : SameBus s.chargeCycle s := ⟨rfl, rfl, rfl, rfl, rfl⟩

theorem SameBus.applyAdvance (s : State) (fetched : Word) : SameBus (s.applyAdvance fetched) s := ⟨rfl, rfl, rfl, rfl, rfl⟩

/-- A refill is two reads. -/
theorem SameBus.refill (s : State) (a : Word) : SameBus (s.refill a) ((s.afterRead .word a).afterRead .word (a + 4)) :=
  ⟨rfl, rfl, rfl, rfl, rfl⟩

/-! ### Accesses to the flat memory -/

theorem busReadValue_word {s : State} {a : Word} (h : s.launch.plain .word a = true) :
    s.busReadValue .word a = s.mem.wordAt a := if_pos h

theorem busReadMem_plain {s : State} {w : Width} {a : Word} (h : s.launch.plain w a = true) :
    s.busReadMem w a = s.mem := if_pos h

theorem busReadDev_plain {s : State} {w : Width} {a : Word} (h : s.launch.plain w a = true) :
    s.busReadDev w a = s.dev := if_pos h

theorem busWriteDev_plain {s : State} {w : Width} {a : Word} (h : s.launch.plain w a = true) (v : Word) :
    s.busWriteDev w a v = s.dev := if_pos h

theorem plain_iff (l : Launch) (w : Width) (a : Word) : l.plain w a = true ↔ aligned w a = true ∧ l.device a = false := by
  simp [Launch.plain]

/-- A plain access is never stuck. -/
theorem not_stuck_of_plain {l : Launch} {w : Width} {a : Word} (h : l.plain w a = true) : l.stuckAt w a = false := by
  simp [Launch.stuckAt, ((plain_iff l w a).mp h).1]

/-- A register read depends on the registers, `PCF` and the mode. -/
theorem readReg_congr {s t : State} (hr : t.regs = s.regs) (hp : t.pcf = s.pcf) (hm : t.cpsr.mode = s.cpsr.mode)
    (i : RegIx) : t.readReg i = s.readReg i := by
  simp [State.readReg, hr, hp, hm]

@[simp] theorem afterRead_readReg (s : State) (w : Width) (a : Word) (i : RegIx) : (s.afterRead w a).readReg i = s.readReg i := rfl

@[simp] theorem chargeCycle_readReg (s : State) (i : RegIx) : (s.chargeCycle).readReg i = s.readReg i := rfl

@[simp] theorem busWrite_readReg (s : State) (w : Width) (a v : Word) (i : RegIx) : (s.busWrite w a v).readReg i = s.readReg i := rfl

end Sys2Proof.Laws
end

