-- ==== Sys2Proof/Laws/Registers.lean ====
section
/-! SUPPORT. Registers, SPSR slots and PSR images: a read after a write, the banks (R22), and exception entry field by
field (R303). -/

namespace Sys2Proof.Laws

open Sys2Proof.Machine

/-! ### Physical registers -/

theorem banked_get_set (r : Banked) (b c : Bank) (v : Word) : (r.set b v).get c = if b = c then v else r.get c := by
  cases b <;> cases c <;> rfl

/-- A read after a write of a physical register. -/
theorem regs_get_set (r : Regs) (p q : PhysReg) (v : Word) : (r.set p v).get q = if p = q then v else r.get q := by
  cases p <;> cases q <;>
    simp [Regs.get, Regs.set, Vector.getElem_set, Fin.ext_iff, banked_get_set]

@[simp] theorem regs_get_set_same (r : Regs) (p : PhysReg) (v : Word) : (r.set p v).get p = v := by
  simp [regs_get_set]

theorem banked_ext {r r' : Banked} (h : ∀ b, r.get b = r'.get b) : r = r' := by
  cases r; cases r'
  simpa [Banked.get] using
    And.intro (h .usr) (And.intro (h .fiq) (And.intro (h .irq) (And.intro (h .svc) (And.intro (h .abt) (h .und)))))

/-- Two register files with the same registers are equal. -/
theorem regs_ext {r r' : Regs} (h : ∀ p, r.get p = r'.get p) : r = r' := by
  obtain ⟨a, b, c, d, e⟩ := r
  obtain ⟨a', b', c', d', e'⟩ := r'
  have ha : a = a' := Vector.ext fun i hi => h (.low ⟨i, hi⟩)
  have hb : b = b' := Vector.ext fun i hi => h (.usrHigh ⟨i, hi⟩)
  have hc : c = c' := Vector.ext fun i hi => h (.fiqHigh ⟨i, hi⟩)
  have hd : d = d' := banked_ext fun b => h (.sp b)
  have he : e = e' := banked_ext fun b => h (.lr b)
  subst ha hb hc hd he
  rfl

/-! ### The banks (R22) -/

/-- Only index 15 names no physical register. -/
theorem bank_eq_none_iff (m : Mode) (i : RegIx) : bank m i = none ↔ i = 15 := by
  revert i; cases m <;> decide +kernel

@[simp] theorem bank_15 (m : Mode) : bank m 15#4 = none := (bank_eq_none_iff m 15).mpr rfl

/-- In one mode two indices never name one register. -/
theorem bank_inj {m : Mode} {i j : RegIx} (hi : i ≠ 15) (h : bank m i = bank m j) : i = j := by
  revert i j; cases m <;> decide +kernel

/-- A register other than R15 is a physical register. -/
theorem bank_some {m : Mode} {i : RegIx} (h : i ≠ 15) : ∃ p, bank m i = some p := by
  cases hb : bank m i with
  | none => exact absurd ((bank_eq_none_iff m i).mp hb) h
  | some p => exact ⟨p, rfl⟩

/-- R14 is the link register of the mode's bank. -/
@[simp] theorem bank_14 (m : Mode) : bank m 14#4 = some (.lr m.bank) := rfl

/-! ### Reads and writes by index -/

@[simp] theorem readReg_15 (s : State) : s.readReg 15#4 = s.pcf := by simp [State.readReg]

@[simp] theorem writeReg_15 (s : State) (v : Word) : s.writeReg 15#4 v = { s with pcf := v } := by simp [State.writeReg]

theorem writeReg_of_bank {s : State} {i : RegIx} {p : PhysReg} (h : bank s.cpsr.mode i = some p) (v : Word) :
    s.writeReg i v = { s with regs := s.regs.set p v } := by
  simp [State.writeReg, h]

theorem readReg_of_bank {s : State} {i : RegIx} {p : PhysReg} (h : bank s.cpsr.mode i = some p) :
    s.readReg i = s.regs.get p := by
  simp [State.readReg, h]

/-- A write of a register other than R15 leaves `PCF` alone. -/
theorem writeReg_pcf {s : State} {i : RegIx} (h : i ≠ 15) (v : Word) : (s.writeReg i v).pcf = s.pcf := by
  obtain ⟨p, hp⟩ := bank_some (m := s.cpsr.mode) h
  rw [writeReg_of_bank hp]

/-- The physical registers after a write by index. -/
theorem writeReg_get (s : State) (i : RegIx) (v : Word) (q : PhysReg) :
    (s.writeReg i v).regs.get q = if bank s.cpsr.mode i = some q then v else s.regs.get q := by
  unfold State.writeReg
  cases hb : bank s.cpsr.mode i with
  | none => simp
  | some p => simp [regs_get_set]

/-- A read after a write by index, in the mode of the write. -/
theorem readReg_writeReg (s : State) (i j : RegIx) (v : Word) :
    (s.writeReg i v).readReg j = if i = j then v else s.readReg j := by
  by_cases h : i = j
  · subst h
    rw [if_pos rfl]
    by_cases h15 : i = 15
    · subst h15; simp
    · obtain ⟨p, hp⟩ := bank_some (m := s.cpsr.mode) h15
      rw [readReg_of_bank (p := p) (by simpa using hp), writeReg_get, if_pos hp]
  · rw [if_neg h]
    by_cases hj : j = 15
    · subst hj
      simpa using writeReg_pcf h v
    · obtain ⟨q, hq⟩ := bank_some (m := s.cpsr.mode) hj
      rw [readReg_of_bank (p := q) (by simpa using hq), readReg_of_bank hq, writeReg_get, if_neg]
      intro hi
      exact h (bank_inj hj (hq.trans hi.symm)).symm

@[simp] theorem readReg_writeReg_same (s : State) (i : RegIx) (v : Word) : (s.writeReg i v).readReg i = v := by
  simp [readReg_writeReg]

theorem readReg_writeReg_other {s : State} {i j : RegIx} (h : i ≠ j) (v : Word) :
    (s.writeReg i v).readReg j = s.readReg j := by
  simp [readReg_writeReg, h]

/-! ### SPSR slots (R29) -/

/-- A mode has a slot unless it is usr or sys. -/
theorem spsrs_get_eq_none_iff (p : Spsrs) (m : Mode) : p.get m = none ↔ m = .usr ∨ m = .sys := by
  cases m <;> simp [Spsrs.get]

theorem spsrs_get_set_same {m : Mode} (p : Spsrs) (v : Word) (h : m ≠ .usr ∧ m ≠ .sys) : (p.set m v).get m = some v := by
  cases m <;> simp_all [Spsrs.get, Spsrs.set]

theorem spsrs_get_set_other {m n : Mode} (p : Spsrs) (v : Word) (h : m ≠ n) : (p.set m v).get n = p.get n := by
  cases m <;> cases n <;> first | rfl | exact absurd rfl h

/-! ### PSR images (R27, R28) -/

@[simp] theorem mode_ofBits_bits (m : Mode) : Mode.ofBits m.bits = some m := by cases m <;> rfl

theorem mode_bits_ofBits {b : BitVec 5} {m : Mode} (h : Mode.ofBits b = some m) : m.bits = b := by
  revert h; revert b; cases m <;> decide +kernel

/-- The fields of a PSR image. -/
theorem psr_ofWord_some {w : Word} {p : Psr} (h : Psr.ofWord w = some p) :
    Mode.ofBits (w.extractLsb 4 0) = some p.mode ∧ p.n = w.getLsbD 31 ∧ p.z = w.getLsbD 30 ∧ p.c = w.getLsbD 29 ∧
      p.v = w.getLsbD 28 ∧ p.reserved = w.extractLsb 27 8 ∧ p.i = w.getLsbD 7 ∧ p.f = w.getLsbD 6 ∧
      p.t = w.getLsbD 5 := by
  unfold Psr.ofWord at h
  split at h
  · cases h
  · rename_i m hm
    cases h
    exact ⟨hm, rfl, rfl, rfl, rfl, rfl, rfl, rfl, rfl⟩

theorem psr_ofWord_eq_none_iff (w : Word) : Psr.ofWord w = none ↔ Mode.ofBits (w.extractLsb 4 0) = none := by
  unfold Psr.ofWord
  split <;> simp_all

/-! ### Exception entry (R303), field by field -/

section
variable (s : State) (k : ExceptionClass) (lr : Word)

@[simp] theorem enterException_pcf : (s.enterException k lr).pcf = k.vector := rfl

@[simp] theorem enterException_cpsr :
    (s.enterException k lr).cpsr =
      { s.cpsr with mode := k.mode, t := false, i := true, f := if k = .fiq then true else s.cpsr.f } := rfl

@[simp] theorem enterException_spsr : (s.enterException k lr).spsr = s.spsr.set k.mode s.cpsr.toWord := rfl

@[simp] theorem enterException_regs : (s.enterException k lr).regs = s.regs.set (.lr k.mode.bank) lr := rfl

@[simp] theorem enterException_ia : (s.enterException k lr).ia = s.ia := rfl

@[simp] theorem enterException_qcur : (s.enterException k lr).qcur = s.qcur := rfl

@[simp] theorem enterException_qnext : (s.enterException k lr).qnext = s.qnext := rfl

@[simp] theorem enterException_icycles : (s.enterException k lr).icycles = s.icycles := rfl

@[simp] theorem enterException_err : (s.enterException k lr).err = s.err := rfl

@[simp] theorem enterException_refused : (s.enterException k lr).refused = s.refused := rfl

@[simp] theorem enterException_mem : (s.enterException k lr).mem = s.mem := rfl

@[simp] theorem enterException_dev : (s.enterException k lr).dev = s.dev := rfl

@[simp] theorem enterException_steps : (s.enterException k lr).steps = s.steps := rfl

@[simp] theorem enterException_busLog : (s.enterException k lr).busLog = s.busLog := rfl

@[simp] theorem enterException_launch : (s.enterException k lr).launch = s.launch := rfl

end

end Sys2Proof.Laws
end

