-- ==== Sys2Proof/Laws/Exec.lean ====
section
/-! SUPPORT. What one instruction can do, said once: `exec` through the descriptor, the three outcomes of the frame every
handler runs in, and the field-by-field effect of each handler. Claims cite these and unfold nothing. -/

namespace Sys2Proof.Laws

open Sys2Proof.Machine

/-! ### `exec` and its frame -/

/-- Every meaning is its class's handler on its descriptor, in the one frame. -/
theorem exec_eq_handler (i : Instr) (s : State) :
    exec i s = runHandler i.cls i.cond (describe i).handler s := by
  cases i <;> rfl

/-- The state a handler starts from: the prefetch is made (R111). -/
abbrev prefetched (s : State) : State := s.afterRead .word s.prefetchAddr

/-- R102: a failing condition only advances. -/
theorem runHandler_failed {c : Cond} {s : State} (h : conditionPassed c s.cpsr = false) (cls : InstrClass)
    (f : State → HandlerResult) :
    runHandler cls c f s =
      .next ((prefetched s).applyAdvance (s.busReadValue .word s.prefetchAddr)) := by
  simp [runHandler, h, prefetched]

/-- A passing condition runs the handler and applies its action. -/
theorem runHandler_passed {c : Cond} {s : State} (h : conditionPassed c s.cpsr = true) (cls : InstrClass)
    (f : State → HandlerResult) :
    runHandler cls c f s =
      match f (prefetched s) with
      | .advance s1 => .next (s1.applyAdvance (s.busReadValue .word s.prefetchAddr))
      | .flush s1 => .next s1.applyFlush
      | .error k =>
        .fault (.raised (s.errorRecord k cls) { prefetched s with err := some (s.errorRecord k cls) })
      | .stuck => .fault .busStuck := by
  exact if_pos h

/-- The three ways an instruction ends in a next state. -/
theorem exec_next {i : Instr} {s t : State} (h : exec i s = .next t) :
    (conditionPassed i.cond s.cpsr = false ∧
        t = (prefetched s).applyAdvance (s.busReadValue .word s.prefetchAddr)) ∨
      (conditionPassed i.cond s.cpsr = true ∧ ∃ s1,
        (describe i).handler (prefetched s) = .advance s1 ∧
          t = s1.applyAdvance (s.busReadValue .word s.prefetchAddr)) ∨
      (conditionPassed i.cond s.cpsr = true ∧ ∃ s1,
        (describe i).handler (prefetched s) = .flush s1 ∧ t = s1.applyFlush) := by
  rw [exec_eq_handler] at h
  cases hc : conditionPassed i.cond s.cpsr with
  | false =>
    rw [runHandler_failed hc] at h
    cases h
    exact .inl ⟨rfl, rfl⟩
  | true =>
    rw [runHandler_passed hc] at h
    split at h
    · cases h; exact .inr (.inl ⟨rfl, _, ‹_›, rfl⟩)
    · cases h; exact .inr (.inr ⟨rfl, _, ‹_›, rfl⟩)
    · cases h
    · cases h

/-- The two ways an instruction ends in a fault. -/
theorem exec_fault {i : Instr} {s : State} {f : Fault} (h : exec i s = .fault f) :
    conditionPassed i.cond s.cpsr = true ∧
      ((∃ k, (describe i).handler (prefetched s) = .error k ∧
          f = .raised (s.errorRecord k i.cls) { prefetched s with err := some (s.errorRecord k i.cls) }) ∨
        ((describe i).handler (prefetched s) = .stuck ∧ f = .busStuck)) := by
  rw [exec_eq_handler] at h
  cases hc : conditionPassed i.cond s.cpsr with
  | false => rw [runHandler_failed hc] at h; cases h
  | true =>
    rw [runHandler_passed hc] at h
    split at h
    · cases h
    · cases h
    · cases h; exact ⟨rfl, .inl ⟨_, ‹_›, rfl⟩⟩
    · cases h; exact ⟨rfl, .inr ⟨‹_›, rfl⟩⟩

/-- No instruction is refused. -/
theorem exec_not_refused (i : Instr) (s : State) (r : Refusal) : exec i s ≠ .refused r := by
  rw [exec_eq_handler]
  cases hc : conditionPassed i.cond s.cpsr with
  | false => rw [runHandler_failed hc]; simp
  | true =>
    rw [runHandler_passed hc]
    split <;> simp

/-- An advancing handler's completion. -/
theorem exec_advance {i : Instr} {s s1 : State} (hc : conditionPassed i.cond s.cpsr = true)
    (h : (describe i).handler (prefetched s) = .advance s1) :
    exec i s = .next (s1.applyAdvance (s.busReadValue .word s.prefetchAddr)) := by
  rw [exec_eq_handler, runHandler_passed hc, h]

/-- A flushing handler's completion. -/
theorem exec_flush {i : Instr} {s s1 : State} (hc : conditionPassed i.cond s.cpsr = true)
    (h : (describe i).handler (prefetched s) = .flush s1) : exec i s = .next s1.applyFlush := by
  rw [exec_eq_handler, runHandler_passed hc, h]

/-- A handler's error. -/
theorem exec_error {i : Instr} {s : State} {k : ErrorKind} (hc : conditionPassed i.cond s.cpsr = true)
    (h : (describe i).handler (prefetched s) = .error k) :
    exec i s =
      .fault (.raised (s.errorRecord k i.cls) { prefetched s with err := some (s.errorRecord k i.cls) }) := by
  rw [exec_eq_handler, runHandler_passed hc, h]

/-- An instruction for which the bus has no step. -/
theorem exec_stuck {i : Instr} {s : State} (hc : conditionPassed i.cond s.cpsr = true)
    (h : (describe i).handler (prefetched s) = .stuck) : exec i s = .fault .busStuck := by
  rw [exec_eq_handler, runHandler_passed hc, h]

/-! ### Sequences of accesses -/

@[simp] theorem busAfter_nil (s : State) : s.busAfter [] = s := rfl

@[simp] theorem busAfter_cons (s : State) (x : Access) (l : List Access) :
    s.busAfter (x :: l) = (x.apply s).busAfter l := rfl

theorem busAfter_append (s : State) (l l' : List Access) : s.busAfter (l ++ l') = (s.busAfter l).busAfter l' :=
  List.foldl_append

theorem SameBus.apply {t s : State} (h : SameBus t s) (x : Access) : SameBus (x.apply t) (x.apply s) := by
  cases x with
  | read w a => exact h.afterRead w a
  | write w a v => exact h.busWrite w a v

theorem SameBus.busAfter {t s : State} (h : SameBus t s) (l : List Access) : SameBus (t.busAfter l) (s.busAfter l) := by
  induction l generalizing t s with
  | nil => exact h
  | cons x l ih => exact ih (h.apply x)

/-- Accesses change the bus only. -/
structure BusOnly (s b : State) : Prop where
  regs : b.regs = s.regs
  pcf : b.pcf = s.pcf
  ia : b.ia = s.ia
  cpsr : b.cpsr = s.cpsr
  spsr : b.spsr = s.spsr
  qcur : b.qcur = s.qcur
  qnext : b.qnext = s.qnext
  icycles : b.icycles = s.icycles
  err : b.err = s.err
  refused : b.refused = s.refused
  steps : b.steps = s.steps
  launch : b.launch = s.launch

theorem busOnly_busAfter (s : State) (l : List Access) : BusOnly s (s.busAfter l) := by
  induction l generalizing s with
  | nil => exact ⟨rfl, rfl, rfl, rfl, rfl, rfl, rfl, rfl, rfl, rfl, rfl, rfl⟩
  | cons x l ih =>
    have h := ih (x.apply s)
    have g : BusOnly s (x.apply s) := by
      cases x <;> exact ⟨rfl, rfl, rfl, rfl, rfl, rfl, rfl, rfl, rfl, rfl, rfl, rfl⟩
    exact ⟨h.regs.trans g.regs, h.pcf.trans g.pcf, h.ia.trans g.ia, h.cpsr.trans g.cpsr, h.spsr.trans g.spsr,
      h.qcur.trans g.qcur, h.qnext.trans g.qnext, h.icycles.trans g.icycles, h.err.trans g.err, h.refused.trans g.refused,
      h.steps.trans g.steps, h.launch.trans g.launch⟩

/-- Accesses keep memory canonical. -/
theorem wf_busAfter {s : State} (l : List Access) (h : s.mem.wf) : (s.busAfter l).mem.wf := by
  induction l generalizing s with
  | nil => exact h
  | cons x l ih =>
    refine ih ?_
    cases x with
    | read w a => exact wf_busReadMem w a h
    | write w a v => exact wf_busWriteMem w a v h

/-- Whether an access is a read. -/
def Reads : Access → Prop
  | .read _ _ => True
  | .write _ _ _ => False

/-- Reads of the flat memory change neither it nor the bus's other state. -/
theorem busAfter_plain_reads {s : State} {l : List Access} (hr : ∀ x ∈ l, Reads x)
    (hp : ∀ x ∈ l, s.launch.plainAccess x = true) : (s.busAfter l).mem = s.mem ∧ (s.busAfter l).dev = s.dev := by
  induction l generalizing s with
  | nil => exact ⟨rfl, rfl⟩
  | cons x l ih =>
    have h := hp x (by simp)
    cases x with
    | write w a v => exact (hr (.write w a v) (by simp)).elim
    | read w a =>
      obtain ⟨h1, h2⟩ := ih (s := s.afterRead w a) (fun y hy => hr y (List.mem_cons_of_mem _ hy))
        (fun y hy => hp y (List.mem_cons_of_mem _ hy))
      exact ⟨h1.trans (busReadMem_plain h), h2.trans (busReadDev_plain h)⟩

/-- Where every access is a read, memory is kept as `State.KeepsMemory` says. -/
theorem keepsMemory_of_reads {s t : State} {l : List Access} (h : t.BusIs (s.busAfter l)) (hr : ∀ x ∈ l, Reads x) :
    s.KeepsMemory t l := by
  refine ⟨h, fun hp b => ?_⟩
  rw [h.1, (busAfter_plain_reads hr hp).1]

theorem busIs_of_sameBus {t b : State} (h : SameBus t b) : t.BusIs b := ⟨h.mem, h.dev, h.busLog⟩

/-! ### The pipeline actions as relations -/

/-- An advance from a handler's end state that kept `IA`, `QNEXT` and the refusal mark. -/
theorem advancesTo_applyAdvance {s s1 : State} (hia : s1.ia = s.ia) (hq : s1.qnext = s.qnext)
    (hr : s1.refused = s.refused) :
    s.AdvancesTo (s1.applyAdvance (s.busReadValue .word s.prefetchAddr)) := by
  refine ⟨by simp [hr], by simp [hia], by simp [hq], by simp [State.prefetchAddr], ?_⟩
  simp only [applyAdvance_pcf, hia]
  bv_omega

theorem low_bits_mask (a : Word) : (a &&& 0xFFFFFFFC).extractLsb 1 0 = 0 := by
  apply BitVec.eq_of_getLsbD_eq
  intro i hi
  have : i = 0 ∨ i = 1 := by omega
  rcases this with rfl | rfl <;> simp

theorem low_bits_add4 {a : Word} (h : a.extractLsb 1 0 = 0) : (a + 4).extractLsb 1 0 = 0 := by
  have h' := congrArg BitVec.toNat h
  apply BitVec.eq_of_toNat_eq
  simp [BitVec.extractLsb, BitVec.extractLsb'_toNat, BitVec.toNat_add] at h' ⊢
  omega

theorem low_bits_add8 {a : Word} (h : a.extractLsb 1 0 = 0) : (a + 8).extractLsb 1 0 = 0 := by
  have := low_bits_add4 (low_bits_add4 h)
  have e : a + 4 + 4 = a + 8 := by bv_omega
  rwa [e] at this

/-- A word-aligned address outside every window is plain. -/
theorem plain_word {l : Launch} {a : Word} (h : a.extractLsb 1 0 = 0) (hd : l.device a = false) :
    l.plain .word a = true := by
  rw [plain_iff]
  exact ⟨by simpa [aligned] using h, hd⟩

/-- The two words of a refill of the flat memory, and that it changes nothing. -/
theorem refill_plain {s : State} {a : Word} (ha : a.extractLsb 1 0 = 0) (h0 : s.launch.device a = false)
    (h4 : s.launch.device (a + 4) = false) :
    s.busReadValue .word a = s.mem.wordAt a ∧ (s.afterRead .word a).busReadValue .word (a + 4) = s.mem.wordAt (a + 4) ∧
      (s.busAfter (refillReads a)).mem = s.mem ∧ (s.busAfter (refillReads a)).dev = s.dev := by
  have p0 := plain_word ha h0
  have p4 := plain_word (low_bits_add4 ha) h4
  have e : (s.afterRead .word a).mem = s.mem := busReadMem_plain p0
  refine ⟨busReadValue_word p0, ?_, busAfter_plain_reads ?_ ?_⟩
  · rw [busReadValue_word (s := s.afterRead .word a) p4, e]
  · simp [refillReads, Reads]
  · intro x hx
    simp only [refillReads, List.mem_cons, List.not_mem_nil, or_false] at hx
    rcases hx with rfl | rfl
    · exact p0
    · exact p4

/-- A flush in ARM state from a handler's end state whose bus is `b`'s. -/
theorem refilledAt_applyFlush {b s1 : State} (hb : SameBus s1 b) (hr : s1.refused = b.refused) (ht : s1.cpsr.t = false) :
    b.RefilledAt s1.applyFlush s1.pcf := by
  rw [applyFlush_arm s1 ht]
  have h := low_bits_mask s1.pcf
  have hs : SameBus (s1.refill (s1.pcf &&& 0xFFFFFFFC)) (b.busAfter (refillReads (s1.pcf &&& 0xFFFFFFFC))) :=
    (SameBus.refill _ _).trans (hb.busAfter (refillReads _))
  refine ⟨by simp [hr], rfl, rfl, ?_, ?_, busIs_of_sameBus hs, ?_⟩
  · simp only [refill_qcur, refill_ia, hb.busReadValue]
  · simp only [refill_qnext, refill_ia, (hb.afterRead _ _).busReadValue]
  · intro h0 h4
    simp only [refill_ia] at h0 h4
    obtain ⟨e0, e4, em, -⟩ := refill_plain h h0 h4
    simp only [refill_qcur, refill_qnext, refill_ia, hb.busReadValue, (hb.afterRead _ _).busReadValue, hs.mem, em]
    exact ⟨e0, e4⟩

/-! ### Effects of the handlers -/

/-- What every handler keeps, and how it ends (R106, R39). -/
structure HandlerKeeps (s s1 : State) : Prop where
  ia : s1.ia = s.ia
  qcur : s1.qcur = s.qcur
  qnext : s1.qnext = s.qnext
  err : s1.err = s.err
  refused : s1.refused = s.refused
  steps : s1.steps = s.steps
  launch : s1.launch = s.launch

/-- The state a single transfer ends in when it answers. -/
def singleEnd (t : Transfer) (s : State) : State :=
  let s1 :=
    if t.load = true then
      ((s.afterRead t.kind.width (t.addr s)).writeReg t.rd
        (t.kind.extend (s.busReadValue t.kind.width (t.addr s)))).chargeCycle
    else s.busWrite t.kind.width (t.addr s) (s.storeValue t.rd)
  if t.writesBack = true then s1.writeReg t.rn (t.ea s) else s1

theorem singleTransfer_eq (t : Transfer) (s : State) :
    singleTransfer t s =
      if t.w = true ∧ t.rn = t.rd then .error .illegalInstruction
      else if t.load = false ∧ t.kind.signed = true then .error .fatalMisuse
      else if s.launch.stuckAt t.kind.width (t.addr s) = true then .stuck
      else HandlerResult.flushIf ((t.load && t.rd == 15) || (t.writesBack && t.rn == 15)) (singleEnd t s) := rfl

theorem flushIf_next {b : Bool} {s s1 : State}
    (h : HandlerResult.flushIf b s = .advance s1 ∨ HandlerResult.flushIf b s = .flush s1) : s1 = s := by
  unfold HandlerResult.flushIf at h
  split at h <;> rcases h with h | h <;> cases h <;> rfl

theorem singleTransfer_next {t : Transfer} {s s1 : State}
    (h : singleTransfer t s = .advance s1 ∨ singleTransfer t s = .flush s1) : s1 = singleEnd t s := by
  rw [singleTransfer_eq] at h
  split at h
  · rcases h with h | h <;> cases h
  · split at h
    · rcases h with h | h <;> cases h
    · split at h
      · rcases h with h | h <;> cases h
      · exact flushIf_next h

/-- The state a block transfer ends in when it answers. -/
def blockEnd (t : BlockTransfer) (s : State) : State :=
  let r := t.run t.order (s.readReg t.rn) s
  if t.writesBack = true then r.2.writeReg t.rn r.1 else r.2

theorem blockTransfer_eq (b : Bool) (t : BlockTransfer) (s : State) :
    blockTransfer b t s =
      if b = true then .error .fatalMisuse
      else if (t.addresses t.order (s.readReg t.rn)).any (s.launch.stuckAt .word) = true then .stuck
      else HandlerResult.flushIf ((t.load && t.list.getLsbD 15) || (t.writesBack && t.rn == 15)) (blockEnd t s) := rfl

theorem blockTransfer_next {b : Bool} {t : BlockTransfer} {s s1 : State}
    (h : blockTransfer b t s = .advance s1 ∨ blockTransfer b t s = .flush s1) : s1 = blockEnd t s := by
  rw [blockTransfer_eq] at h
  split at h
  · rcases h with h | h <;> cases h
  · split at h
    · rcases h with h | h <;> cases h
    · exact flushIf_next h

/-- The loop of a block transfer changes registers, `PCF`, the bus and the cycle count only. -/
theorem block_run_keeps (t : BlockTransfer) (l : List RegIx) (a : Word) (s : State) :
    HandlerKeeps s (t.run l a s).2 ∧ (t.run l a s).2.cpsr = s.cpsr ∧ (t.run l a s).2.spsr = s.spsr := by
  induction l generalizing a s with
  | nil => exact ⟨⟨rfl, rfl, rfl, rfl, rfl, rfl, rfl⟩, rfl, rfl⟩
  | cons r l ih =>
    obtain ⟨⟨h1, h2, h3, h4, h5, h6, h7⟩, h8, h9⟩ := ih (t.next a) (t.transferOne r (t.accessAddr a) s)
    unfold BlockTransfer.run
    have e : ∀ x, HandlerKeeps s (t.transferOne r x s) ∧ (t.transferOne r x s).cpsr = s.cpsr ∧
        (t.transferOne r x s).spsr = s.spsr := by
      intro x
      unfold BlockTransfer.transferOne
      split <;> refine ⟨⟨?_, ?_, ?_, ?_, ?_, ?_, ?_⟩, ?_, ?_⟩ <;> simp
    obtain ⟨⟨g1, g2, g3, g4, g5, g6, g7⟩, g8, g9⟩ := e (t.accessAddr a)
    exact ⟨⟨h1.trans g1, h2.trans g2, h3.trans g3, h4.trans g4, h5.trans g5, h6.trans g6, h7.trans g7⟩, h8.trans g8,
      h9.trans g9⟩

/-- The final address of the loop. -/
theorem block_run_final (t : BlockTransfer) (l : List RegIx) (a : Word) (s : State) :
    (t.run l a s).1 = if t.u = true then a + 4 * BitVec.ofNat 32 l.length else a - 4 * BitVec.ofNat 32 l.length := by
  induction l generalizing a s with
  | nil => simp [BlockTransfer.run]
  | cons r l ih =>
    unfold BlockTransfer.run
    rw [ih]
    unfold BlockTransfer.next
    cases t.u <;> simp [BitVec.ofNat_add, BitVec.mul_add] <;> ring

/-- Whatever a handler answers, it keeps what `HandlerKeeps` names. -/
theorem handler_keeps (d : Descriptor) (s s1 : State)
    (h : d.handler s = .advance s1 ∨ d.handler s = .flush s1) : HandlerKeeps s s1 := by
  cases d with
  | branchExchange rn =>
    simp only [Descriptor.handler, branchExchangeHandler] at h
    rcases h with h | h <;> cases h
    constructor <;> simp
  | branch link imm24 =>
    simp only [Descriptor.handler, branchHandler] at h
    rcases h with h | h <;> cases h
    constructor <;> simp <;> split <;> simp
  | swi =>
    simp only [Descriptor.handler, swiHandler] at h
    rcases h with h | h <;> cases h
    constructor <;> simp
  | msr p rm =>
    cases p
    · simp only [Descriptor.handler, msrCpsrHandler] at h
      split at h
      · rcases h with h | h <;> cases h
        constructor <;> simp
      · split at h
        · rcases h with h | h <;> cases h
        · rcases h with h | h <;> cases h
          constructor <;> simp
    · simp only [Descriptor.handler, msrSpsrHandler] at h
      split at h
      · rcases h with h | h <;> cases h
      · rcases h with h | h <;> cases h
        constructor <;> simp
  | dataProcessing op f rn rd o =>
    simp only [Descriptor.handler, dataProcessing] at h
    split at h
    · rcases h with h | h <;> cases h
    · unfold HandlerResult.flushIf at h
      have hc : ∀ x : State, HandlerKeeps x (o.charge x) := by
        intro x; cases o <;> constructor <;> rfl
      split at h <;> rcases h with h | h <;> cases h <;> constructor <;> dsimp <;> split <;>
        simp [(hc s).ia, (hc s).qcur, (hc s).qnext, (hc s).err, (hc s).refused, (hc s).steps, (hc s).launch]
  | single t =>
    cases singleTransfer_next h
    unfold singleEnd
    constructor <;> dsimp only <;> (repeat' split) <;> simp
  | block b t =>
    cases blockTransfer_next h
    unfold blockEnd
    obtain ⟨⟨h1, h2, h3, h4, h5, h6, h7⟩, -, -⟩ := block_run_keeps t t.order (s.readReg t.rn) s
    constructor <;> dsimp only <;> split <;> simp [h1, h2, h3, h4, h5, h6, h7]
  | unimplemented =>
    simp only [Descriptor.handler, unimplemented] at h
    rcases h with h | h <;> cases h

end Sys2Proof.Laws
end

