-- ==== Sys2Proof/Laws/Alu.lean ====
section
/-! SUPPORT. The ALU as arithmetic: the result, carry and overflow of `alu` (R164, R165, R172) are those the claims state
through exact integers (R176 to R192). -/

namespace Sys2Proof.Laws

open Sys2Proof Sys2Proof.Machine

/-- The result and carry of an addition with carry. -/
theorem addWithCarry_value (x y : Word) (c : Bool) :
    (addWithCarry x y c).value = BitVec.ofInt 32 (x.toNat + y.toNat + c.toNat) := by
  apply BitVec.eq_of_toNat_eq
  simp only [addWithCarry, BitVec.toNat_ofNat, BitVec.toNat_ofInt]
  omega

theorem addWithCarry_carry (x y : Word) (c : Bool) :
    (addWithCarry x y c).carry = decide ((2 : Int) ^ 32 ≤ x.toNat + y.toNat + c.toNat) := by
  simp only [addWithCarry]
  congr 1
  apply propext
  constructor <;> intro h <;> omega

theorem msb_iff (x : Word) : x.getLsbD 31 = true ↔ 2 ^ 31 ≤ x.toNat := by
  have h : x.getLsbD 31 = x.msb := by rw [BitVec.msb_eq_getLsbD_last]
  rw [h, BitVec.msb_eq_decide]
  simp

/-- The overflow of an addition with carry: the signed sum leaves the 32-bit range (R192). -/
theorem addWithCarry_overflow (x y : Word) (c : Bool) :
    (addWithCarry x y c).overflow =
      decide (x.toInt + y.toInt + c.toNat < -(2 : Int) ^ 31 ∨ (2 : Int) ^ 31 ≤ x.toInt + y.toInt + c.toNat) := by
  have hx := msb_iff x
  have hy := msb_iff y
  have hr := msb_iff (addWithCarry x y c).value
  have hv : (addWithCarry x y c).value.toNat = (x.toNat + y.toNat + c.toNat) % 2 ^ 32 := by
    simp [addWithCarry]
  rw [hv] at hr
  have ix : x.toInt = if 2 * x.toNat < 2 ^ 32 then (x.toNat : Int) else x.toNat - 2 ^ 32 := by
    rw [BitVec.toInt_eq_toNat_cond]; norm_num
  have iy : y.toInt = if 2 * y.toNat < 2 ^ 32 then (y.toNat : Int) else y.toNat - 2 ^ 32 := by
    rw [BitVec.toInt_eq_toNat_cond]; norm_num
  have lx := x.isLt
  have ly := y.isLt
  have lc : c.toNat ≤ 1 := by cases c <;> simp
  have e : (addWithCarry x y c).overflow =
      (x.getLsbD 31 == y.getLsbD 31 && (addWithCarry x y c).value.getLsbD 31 != x.getLsbD 31) := rfl
  rw [e, ix, iy]
  generalize x.getLsbD 31 = bx at *
  generalize y.getLsbD 31 = byy at *
  generalize (addWithCarry x y c).value.getLsbD 31 = br at *
  generalize x.toNat = nx at *
  generalize y.toNat = ny at *
  generalize c.toNat = nc at *
  rw [Bool.eq_iff_iff]
  simp only [Bool.and_eq_true, beq_iff_eq, bne_iff_ne, decide_eq_true_eq]
  cases bx <;> cases byy <;> cases br <;> simp at hx hy hr ⊢ <;> split <;> split <;> omega

theorem not_toNat (x : Word) : (~~~x).toNat = 2 ^ 32 - 1 - x.toNat := by
  rw [BitVec.toNat_not]

theorem not_toInt (x : Word) : (~~~x).toInt = -x.toInt - 1 := by
  rw [BitVec.toInt_not, BitVec.toInt_eq_toNat_cond]
  have := x.isLt
  split <;> simp [Int.bmod] <;> split <;> omega

/-- The result of every opcode (R176 to R191). -/
theorem alu_value (op : AluOp) (a b : Word) (sc : Bool) (p : Psr) : (alu op a b sc p).value = op.result a b p.c := by
  cases op <;> first
    | rfl
    | (simp only [alu, addWithCarry_value, AluOp.result, AluOp.exact, not_toNat]
       have := a.isLt
       have := b.isLt
       apply BitVec.eq_of_toNat_eq
       simp only [BitVec.toNat_ofInt]
       cases p.c <;> simp <;> omega)

/-- The carry of every opcode (R164, R172, R192). -/
theorem alu_carry (op : AluOp) (a b : Word) (sc : Bool) (p : Psr) : (alu op a b sc p).carry = op.carry a b p.c sc := by
  cases op <;> first
    | rfl
    | (simp only [alu, addWithCarry_carry, AluOp.carry]
       have := a.isLt
       have := b.isLt
       refine decide_eq_decide.mpr ?_
       simp only [AluOp.exact, not_toNat] <;> cases p.c <;> simp <;> omega)

/-- The overflow of every opcode (R172, R192). -/
theorem alu_overflow (op : AluOp) (a b : Word) (sc : Bool) (p : Psr) :
    (alu op a b sc p).overflow = op.overflow a b p.c p.v := by
  cases op <;> first
    | rfl
    | (simp only [alu, addWithCarry_overflow, AluOp.overflow, AluOp.arithmetic, if_true]
       refine decide_eq_decide.mpr ?_
       simp only [AluOp.exact, not_toInt] <;> cases p.c <;> simp <;> omega)

end Sys2Proof.Laws
end

