-- ==== Sys2Proof/Laws/Block.lean ====
section
/-! SUPPORT. The loop of a block transfer (R261), said once: which address each register has (R263), and what the loop
leaves in the registers, the cycle count and the bus. -/

namespace Sys2Proof.Laws

open Sys2Proof.Machine

/-! ### Addresses -/

/-- `f` gives the address the loop uses for each register of `l`, from the running address `a`. -/
def Visits (t : BlockTransfer) (f : RegIx → Word) : List RegIx → Word → Prop
  | [], _ => True
  | r :: l, a => t.accessAddr a = f r ∧ Visits t f l (t.next a)

/-- The place of an element in a filtered sorted list is the number of elements of it below. -/
theorem length_filter_lt (P : RegIx → Bool) (l₁ l₂ : List RegIx) (r : RegIx)
    (h : ((l₁ ++ r :: l₂).Pairwise fun x y => x.toNat < y.toNat)) :
    ((l₁ ++ r :: l₂).filter fun q => P q && decide (q.toNat < r.toNat)).length = (l₁.filter P).length := by
  rw [List.pairwise_append, List.pairwise_cons] at h
  obtain ⟨h1, ⟨h2, h3⟩, h4⟩ := h
  rw [List.filter_append, List.length_append]
  have e1 : (l₁.filter fun q => P q && decide (q.toNat < r.toNat)) = l₁.filter P := by
    apply List.filter_congr
    intro x hx
    simp [h4 x hx r (by simp)]
  have e2 : ((r :: l₂).filter fun q => P q && decide (q.toNat < r.toNat)) = [] := by
    rw [List.filter_eq_nil_iff]
    intro x hx
    rcases List.mem_cons.mp hx with rfl | hx
    · simp
    · have := h2 x hx
      simp; intro _; omega
  rw [e1, e2]; simp

theorem allRegs_sorted : allRegs.Pairwise fun x y => x.toNat < y.toNat := by decide

theorem mem_allRegs (r : RegIx) : r ∈ allRegs := by revert r; decide

/-- A listed register splits the ascending list at its rank. -/
theorem regs_split {t : BlockTransfer} {l₁ l₂ : List RegIx} {r : RegIx} (h : t.regs = l₁ ++ r :: l₂) :
    t.rank r = l₁.length := by
  unfold BlockTransfer.regs at h
  obtain ⟨m₁, m₂, hm, e₁, e₂⟩ := List.filter_eq_append_iff.mp h
  obtain ⟨n₁, n₂, hn, f₁, f₂, f₃⟩ := List.filter_eq_cons_iff.mp e₂
  unfold BlockTransfer.rank
  have hs := allRegs_sorted
  rw [hm, hn, ← List.append_assoc] at hs
  rw [hm, hn, ← List.append_assoc, length_filter_lt _ _ _ _ hs, List.filter_append, List.length_append, e₁]
  have : n₁.filter (fun r => t.list.getLsbD r.toNat) = [] := by
    rw [List.filter_eq_nil_iff]; exact fun x hx => by simpa using f₁ x hx
  simp [this]

theorem mem_regs (t : BlockTransfer) (r : RegIx) : r ∈ t.regs ↔ t.list.getLsbD r.toNat = true := by
  simp [BlockTransfer.regs, mem_allRegs]

theorem mem_order (t : BlockTransfer) (r : RegIx) : r ∈ t.order ↔ t.list.getLsbD r.toNat = true := by
  unfold BlockTransfer.order
  split <;> simp [mem_regs]

theorem regs_nodup (t : BlockTransfer) : t.regs.Nodup :=
  List.Nodup.filter _ (by decide)

theorem order_nodup (t : BlockTransfer) : t.order.Nodup := by
  unfold BlockTransfer.order
  split
  · exact regs_nodup t
  · exact List.nodup_reverse.mpr (regs_nodup t)

theorem length_order (t : BlockTransfer) : t.order.length = t.count := by
  unfold BlockTransfer.order BlockTransfer.count
  split <;> simp

theorem visits_ascending (t : BlockTransfer) (base : Word) (hu : t.u = true) (l₁ l₂ : List RegIx)
    (h : t.regs = l₁ ++ l₂) : Visits t (t.addrOf base) l₂ (base + 4 * BitVec.ofNat 32 l₁.length) := by
  induction l₂ generalizing l₁ with
  | nil => trivial
  | cons r l ih =>
    refine ⟨?_, ?_⟩
    · have hr := regs_split h
      simp only [BlockTransfer.accessAddr, BlockTransfer.next, BlockTransfer.addrOf, BlockTransfer.lowest, hu, hr]
      cases t.p <;> simp
      ring
    · have := ih (l₁ ++ [r]) (by simp [h])
      simp only [List.length_append, List.length_singleton, BitVec.ofNat_add, BitVec.mul_add] at this
      simp only [BlockTransfer.next, hu, if_true]
      have e : base + (4 * BitVec.ofNat 32 l₁.length + 4 * BitVec.ofNat 32 1) = base + 4 * BitVec.ofNat 32 l₁.length + 4 := by
        rw [← BitVec.add_assoc]; rfl
      rwa [e] at this

theorem visits_descending (t : BlockTransfer) (base : Word) (hu : t.u = false) (l₁ l₂ : List RegIx)
    (h : t.regs = l₁ ++ l₂) :
    Visits t (t.addrOf base) l₁.reverse (base - 4 * BitVec.ofNat 32 l₂.length) := by
  induction l₁ using List.reverseRecOn generalizing l₂ with
  | nil => trivial
  | append_singleton l r ih =>
    have h' : t.regs = l ++ r :: l₂ := by simpa using h
    rw [List.reverse_append, List.reverse_singleton, List.singleton_append]
    refine ⟨?_, ?_⟩
    · have hr := regs_split h'
      have hn : t.count = l.length + (l₂.length + 1) := by
        unfold BlockTransfer.count; rw [h']; simp
      simp only [BlockTransfer.accessAddr, BlockTransfer.next, BlockTransfer.addrOf, BlockTransfer.lowest, hu, hr, hn]
      cases t.p <;> simp [BitVec.ofNat_add]
      · ring
      · bv_omega
    · have := ih (r :: l₂) h'
      simp only [List.length_cons, BitVec.ofNat_add, BitVec.mul_add] at this
      simp only [BlockTransfer.next, hu]
      have e : base - (4 * BitVec.ofNat 32 l₂.length + 4 * BitVec.ofNat 32 1) = base - 4 * BitVec.ofNat 32 l₂.length - 4 := by
        show _ = base - 4 * BitVec.ofNat 32 l₂.length - 4 * BitVec.ofNat 32 1
        ring
      rw [e] at this
      simpa using this

/-- The table of R263: the loop visits each listed register at its address. -/
theorem visits_order (t : BlockTransfer) (base : Word) : Visits t (t.addrOf base) t.order base := by
  cases hu : t.u with
  | true =>
    have := visits_ascending t base hu [] t.regs rfl
    simpa [BlockTransfer.order, hu] using this
  | false =>
    have := visits_descending t base hu t.regs [] (by simp)
    simpa [BlockTransfer.order, hu] using this

/-- The addresses the loop accesses. -/
theorem addresses_eq (t : BlockTransfer) (f : RegIx → Word) (l : List RegIx) (a : Word) (h : Visits t f l a) :
    t.addresses l a = l.map f := by
  induction l generalizing a with
  | nil => rfl
  | cons r l ih =>
    obtain ⟨h1, h2⟩ := h
    rw [BlockTransfer.addresses, ih _ h2, h1]; rfl

/-- The final address of a block transfer. -/
theorem run_final (t : BlockTransfer) (base : Word) (s : State) : (t.run t.order base s).1 = t.final base := by
  rw [block_run_final, length_order]; rfl

/-! ### What the loop leaves -/

section
variable {t : BlockTransfer} {f : RegIx → Word}

theorem run_load_icycles (h : t.load = true) (l : List RegIx) (a : Word) (s : State) :
    (t.run l a s).2.icycles = s.icycles + l.length := by
  induction l generalizing a s with
  | nil => rfl
  | cons r l ih =>
    unfold BlockTransfer.run
    rw [ih]
    simp [BlockTransfer.transferOne, h]
    omega

theorem run_store_icycles (h : t.load = false) (l : List RegIx) (a : Word) (s : State) :
    (t.run l a s).2.icycles = s.icycles := by
  induction l generalizing a s with
  | nil => rfl
  | cons r l ih =>
    unfold BlockTransfer.run
    rw [ih]
    simp [BlockTransfer.transferOne, h]

theorem run_store_regs (h : t.load = false) (l : List RegIx) (a : Word) (s : State) :
    (t.run l a s).2.regs = s.regs ∧ (t.run l a s).2.pcf = s.pcf := by
  induction l generalizing a s with
  | nil => exact ⟨rfl, rfl⟩
  | cons r l ih =>
    unfold BlockTransfer.run
    obtain ⟨h1, h2⟩ := ih (t.next a) (t.transferOne r (t.accessAddr a) s)
    rw [h1, h2]
    simp [BlockTransfer.transferOne, h]

/-- The access the loop makes for one register at the address `f` gives it, from the state it starts in. -/
def blockAccess (t : BlockTransfer) (f : RegIx → Word) (s : State) (r : RegIx) : Access :=
  if t.load = true then .read .word (f r) else .write .word (f r) (s.storeValue r)

/-- The value a block store sends for a register does not change in the loop (R266). -/
theorem transferOne_storeValue (h : t.load = false) (q r : RegIx) (a : Word) (s : State) :
    (t.transferOne q a s).storeValue r = s.storeValue r := by
  simp [BlockTransfer.transferOne, h, State.storeValue]

/-- Nor do the accesses still to come. -/
theorem transferOne_blockAccess (q : RegIx) (a : Word) (s : State) :
    blockAccess t f (t.transferOne q a s) = blockAccess t f s := by
  funext r
  unfold blockAccess
  cases h : t.load with
  | true => rfl
  | false => rw [transferOne_storeValue h]

/-- One turn of the loop makes one access. -/
theorem transferOne_bus {r : RegIx} {a : Word} (ha : a = f r) (s : State) :
    SameBus (t.transferOne r a s) ((blockAccess t f s r).apply s) := by
  subst ha
  unfold BlockTransfer.transferOne blockAccess
  cases t.load with
  | true => exact (SameBus.chargeCycle _).trans (SameBus.writeReg _ _ _)
  | false => exact SameBus.refl _

/-- The accesses of the loop, in order (R271): the bus it leaves. -/
theorem run_bus (l : List RegIx) (a : Word) (s : State) (hv : Visits t f l a) :
    SameBus (t.run l a s).2 (s.busAfter (l.map (blockAccess t f s))) := by
  induction l generalizing a s with
  | nil => exact SameBus.refl s
  | cons r l ih =>
    obtain ⟨h1, h2⟩ := hv
    have h := ih (t.next a) (t.transferOne r (t.accessAddr a) s) h2
    rw [transferOne_blockAccess] at h
    exact h.trans ((transferOne_bus h1 s).busAfter _)

/-- A load leaves the registers not listed as they are. -/
theorem run_load_other (h : t.load = true) (l : List RegIx) (a : Word) (s : State) (p : PhysReg)
    (hp : ∀ r ∈ l, bank s.cpsr.mode r ≠ some p) : (t.run l a s).2.regs.get p = s.regs.get p := by
  induction l generalizing a s with
  | nil => rfl
  | cons r l ih =>
    unfold BlockTransfer.run
    rw [ih _ _ fun q hq => by
      simpa [BlockTransfer.transferOne, h] using hp q (List.mem_cons_of_mem _ hq)]
    simp only [BlockTransfer.transferOne, h, if_true, chargeCycle_regs, writeReg_get]
    rw [if_neg (by simpa using hp r (by simp))]
    rfl

/-- A load leaves `x[j]` as it is when `j` is not listed. -/
theorem run_load_readReg_other (h : t.load = true) (l : List RegIx) (a : Word) (s : State) (j : RegIx) (hj : j ∉ l) :
    (t.run l a s).2.readReg j = s.readReg j := by
  induction l generalizing a s with
  | nil => rfl
  | cons r l ih =>
    unfold BlockTransfer.run
    rw [ih _ _ fun hq => hj (List.mem_cons_of_mem _ hq)]
    simp only [BlockTransfer.transferOne, h, if_true, chargeCycle_readReg]
    rw [readReg_writeReg_other (fun e => hj (by simp [e]))]
    rfl

/-- A load gives each listed register, R15 included, the word at its address after the reads that come before it. -/
theorem run_load_readReg (h : t.load = true) (l : List RegIx) (a : Word) (s : State) (hv : Visits t f l a) (hd : l.Nodup)
    (r : RegIx) (hr : r ∈ l) :
    (t.run l a s).2.readReg r =
      (s.busAfter ((l.takeWhile fun q => q != r).map (blockAccess t f s))).busReadValue .word (f r) := by
  induction l generalizing a s with
  | nil => cases hr
  | cons q l ih =>
    obtain ⟨h1, h2⟩ := hv
    obtain ⟨hq, hd⟩ := List.nodup_cons.mp hd
    unfold BlockTransfer.run
    by_cases e : q = r
    · subst e
      rw [run_load_readReg_other h _ _ _ _ hq]
      simp [BlockTransfer.transferOne, h, h1]
    · rcases List.mem_cons.mp hr with rfl | hr
      · exact absurd rfl e
      · rw [ih _ _ h2 hd hr, transferOne_blockAccess,
          (((transferOne_bus (t := t) h1 s).busAfter _).busReadValue .word (f r))]
        have e' : (q != r) = true := by simpa using e
        simp only [List.takeWhile_cons, e', if_true, List.map_cons, busAfter_cons]

/-- The launch does not change in the loop. -/
theorem transferOne_launch (q : RegIx) (a : Word) (s : State) : (t.transferOne q a s).launch = s.launch := by
  unfold BlockTransfer.transferOne
  split <;> simp

/-- A store to the flat memory leaves the bytes outside the block as they are. -/
theorem run_store_other (h : t.load = false) (l : List RegIx) (a : Word) (s : State) (hv : Visits t f l a)
    (ha : ∀ r ∈ l, s.launch.plain .word (f r) = true) (b : Word) (hb : ∀ r ∈ l, 4 ≤ (b - f r).toNat) :
    (t.run l a s).2.mem.byteAt b = s.mem.byteAt b := by
  induction l generalizing a s with
  | nil => rfl
  | cons r l ih =>
    obtain ⟨h1, h2⟩ := hv
    unfold BlockTransfer.run
    rw [ih _ _ h2 (fun q hq => by rw [transferOne_launch]; exact ha q (List.mem_cons_of_mem _ hq))
      fun q hq => hb q (List.mem_cons_of_mem _ hq)]
    have al := ha r (by simp)
    have hb := hb r (by simp)
    simp only [BlockTransfer.transferOne, h, Bool.false_eq_true, if_false, busWrite_mem, State.busWriteMem, h1, al, if_true,
      byteAt_setWord]
    rw [if_neg, if_neg, if_neg, if_neg] <;> bv_omega

/-- A store to the flat memory leaves each listed register's value at its address, when the addresses are four or more
bytes apart. -/
theorem run_store_word (h : t.load = false) (l : List RegIx) (a : Word) (s : State) (hv : Visits t f l a)
    (ha : ∀ r ∈ l, s.launch.plain .word (f r) = true) (hd : l.Nodup)
    (hf : ∀ q ∈ l, ∀ r ∈ l, q ≠ r → 4 ≤ (f r - f q).toNat ∧ 4 ≤ (f q - f r).toNat) (r : RegIx) (hr : r ∈ l) :
    (t.run l a s).2.mem.wordAt (f r) = s.storeValue r := by
  induction l generalizing a s with
  | nil => cases hr
  | cons q l ih =>
    obtain ⟨h1, h2⟩ := hv
    obtain ⟨hq, hd⟩ := List.nodup_cons.mp hd
    unfold BlockTransfer.run
    have ha' : ∀ x ∈ l, (t.transferOne q (t.accessAddr a) s).launch.plain .word (f x) = true := fun x hx => by
      rw [transferOne_launch]; exact ha x (List.mem_cons_of_mem _ hx)
    rcases List.mem_cons.mp hr with rfl | hr
    · have al := ha r (by simp)
      have e : (t.transferOne r (t.accessAddr a) s).mem = s.mem.setWord (f r) (s.storeValue r) := by
        simp only [BlockTransfer.transferOne, h, Bool.false_eq_true, if_false, busWrite_mem, State.busWriteMem, h1, al,
          if_true, State.storeValue]
      have low : ∀ x ∈ r :: l, (f x).toNat % 4 = 0 := by
        intro x hx
        have := ((plain_iff _ _ _).mp (ha x hx)).1
        simp only [aligned, beq_iff_eq] at this
        have := congrArg BitVec.toNat this
        simpa [BitVec.extractLsb, BitVec.extractLsb'_toNat] using this
      have key : ∀ k : Word, k.toNat < 4 →
          (t.run l (t.next a) (t.transferOne r (t.accessAddr a) s)).2.mem.byteAt (f r + k) =
            (s.mem.setWord (f r) (s.storeValue r)).byteAt (f r + k) := by
        intro k hk
        rw [run_store_other h _ _ _ h2 ha' _ fun x hx => ?_, e]
        have hne : r ≠ x := fun e => hq (e ▸ hx)
        have g := hf r (by simp) x (List.mem_cons_of_mem _ hx) hne
        have ax := low x (List.mem_cons_of_mem _ hx)
        have ar := low r (by simp)
        bv_omega
      have k0 := key 0 (by decide)
      have k1 := key 1 (by decide)
      have k2 := key 2 (by decide)
      have k3 := key 3 (by decide)
      have z : f r + 0 = f r := by bv_omega
      rw [z] at k0
      rw [Memory.wordAt, k0, k1, k2, k3]
      exact wordAt_setWord _ _ _
    · rw [ih _ _ h2 ha' hd (fun x hx y hy => hf x (List.mem_cons_of_mem _ hx) y (List.mem_cons_of_mem _ hy)) hr,
        transferOne_storeValue h]

end

/-- The accesses of the whole loop are those of `BlockTransfer.accessOf`. -/
theorem blockAccess_addrOf (t : BlockTransfer) (s : State) :
    blockAccess t (t.addrOf (s.readReg t.rn)) s = t.accessOf s := rfl

/-! ### The addresses are apart -/

theorem rank_lt (t : BlockTransfer) (r : RegIx) : t.rank r < 16 ∨ t.rank r = 16 := by
  have : t.rank r ≤ 16 := by
    unfold BlockTransfer.rank
    exact (List.length_filter_le _ _).trans (by decide)
  omega

theorem rank_lt_rank {t : BlockTransfer} {q r : RegIx} (hq : t.list.getLsbD q.toNat = true) (h : q.toNat < r.toNat) :
    t.rank q < t.rank r := by
  unfold BlockTransfer.rank
  have hq' : q ∈ allRegs.filter fun x => t.list.getLsbD x.toNat && decide (x.toNat < r.toNat) := by
    simp [mem_allRegs, hq, h]
  have hs : (allRegs.filter fun x => t.list.getLsbD x.toNat && decide (x.toNat < q.toNat)) =
      ((allRegs.filter fun x => t.list.getLsbD x.toNat && decide (x.toNat < r.toNat)).filter fun x =>
        decide (x.toNat < q.toNat)) := by
    rw [List.filter_filter]
    apply List.filter_congr
    intro x _
    by_cases hx : x.toNat < q.toNat
    · simp [hx, Nat.lt_trans hx h]
    · simp [hx]
  rw [hs]
  refine List.length_filter_lt_length_iff_exists.mpr ⟨q, hq', by simp⟩

/-- Two listed registers' addresses are four bytes or more apart, both ways round. -/
theorem addrOf_apart {t : BlockTransfer} (base : Word) {q r : RegIx} (hq : t.list.getLsbD q.toNat = true)
    (hr : t.list.getLsbD r.toNat = true) (h : q ≠ r) :
    4 ≤ (t.addrOf base r - t.addrOf base q).toNat ∧ 4 ≤ (t.addrOf base q - t.addrOf base r).toNat := by
  have hne : q.toNat ≠ r.toNat := fun e => h (BitVec.eq_of_toNat_eq e)
  have hlt : t.rank q ≠ t.rank r := by
    rcases Nat.lt_or_gt_of_ne hne with g | g
    · exact (rank_lt_rank hq g).ne
    · exact (rank_lt_rank hr g).ne'
  have b1 := rank_lt t q
  have b2 := rank_lt t r
  unfold BlockTransfer.addrOf
  generalize t.lowest base = w
  generalize t.rank q = m at *
  generalize t.rank r = n at *
  constructor <;> bv_omega

theorem low_bits_four_mul {a : Word} (h : a.extractLsb 1 0 = 0) (k : Word) :
    (a + 4 * k).extractLsb 1 0 = 0 ∧ (a - 4 * k).extractLsb 1 0 = 0 := by
  have h' := congrArg BitVec.toNat h
  constructor <;>
  · apply BitVec.eq_of_toNat_eq
    simp [BitVec.extractLsb, BitVec.extractLsb'_toNat, BitVec.toNat_add, BitVec.toNat_sub, BitVec.toNat_mul] at h' ⊢
    omega

/-- From an aligned base every address of the block is aligned. -/
theorem addrOf_aligned (t : BlockTransfer) {base : Word} (h : base.extractLsb 1 0 = 0) (r : RegIx) :
    (t.addrOf base r).extractLsb 1 0 = 0 := by
  unfold BlockTransfer.addrOf
  refine (low_bits_four_mul ?_ _).1
  unfold BlockTransfer.lowest
  split
  · exact h
  · exact low_bits_add4 h
  · exact (low_bits_four_mul h _).2
  · exact (low_bits_four_mul h _).2

end Sys2Proof.Laws
end

