-- ==== Sys2Proof/Laws/PerInstr.lean ====
section
/-! SUPPORT. The family `CondField`: bits 31:28 of an instruction's word are its condition field (R71), whatever its format.
One lemma per format, one per constructor. -/

namespace Sys2Proof.Laws

/-! ### One lemma per format -/

theorem cond_of_encodeBranch (l : Bool) (f : BranchFields) : (encodeBranch l f).extractLsb' 28 4 = f.cond.bits := by
  unfold encodeBranch
  apply BitVec.eq_of_getLsbD_eq
  intro i hi
  simp only [BitVec.getLsbD_extractLsb', BitVec.getLsbD_append]
  interval_cases i <;> simp

theorem cond_of_encodeCopReg (l : Bool) (f : CopRegFields) : (encodeCopReg l f).extractLsb' 28 4 = f.cond.bits := by
  unfold encodeCopReg
  apply BitVec.eq_of_getLsbD_eq
  intro i hi
  simp only [BitVec.getLsbD_extractLsb', BitVec.getLsbD_append]
  interval_cases i <;> simp

theorem cond_of_encodeCopData (l : Bool) (f : CopDataFields) : (encodeCopData l f).extractLsb' 28 4 = f.cond.bits := by
  unfold encodeCopData
  apply BitVec.eq_of_getLsbD_eq
  intro i hi
  simp only [BitVec.getLsbD_extractLsb', BitVec.getLsbD_append]
  interval_cases i <;> simp

theorem cond_of_encodeBlock (p u s l : Bool) (f : BlockFields) : (encodeBlock p u s l f).extractLsb' 28 4 = f.cond.bits := by
  unfold encodeBlock
  apply BitVec.eq_of_getLsbD_eq
  intro i hi
  simp only [BitVec.getLsbD_extractLsb', BitVec.getLsbD_append]
  interval_cases i <;> simp

theorem cond_of_encodeImmPre (b l : Bool) (f : ImmPreFields) : (encodeImmPre b l f).extractLsb' 28 4 = f.cond.bits := by
  unfold encodeImmPre
  apply BitVec.eq_of_getLsbD_eq
  intro i hi
  simp only [BitVec.getLsbD_extractLsb', BitVec.getLsbD_append]
  interval_cases i <;> simp

theorem cond_of_encodeImmPost (b w l : Bool) (f : ImmPostFields) : (encodeImmPost b w l f).extractLsb' 28 4 = f.cond.bits := by
  unfold encodeImmPost
  apply BitVec.eq_of_getLsbD_eq
  intro i hi
  simp only [BitVec.getLsbD_extractLsb', BitVec.getLsbD_append]
  interval_cases i <;> simp

theorem cond_of_encodeRegPre (b l : Bool) (f : RegPreFields) : (encodeRegPre b l f).extractLsb' 28 4 = f.cond.bits := by
  unfold encodeRegPre
  apply BitVec.eq_of_getLsbD_eq
  intro i hi
  simp only [BitVec.getLsbD_extractLsb', BitVec.getLsbD_append]
  interval_cases i <;> simp

theorem cond_of_encodeRegPost (b w l : Bool) (f : RegPostFields) : (encodeRegPost b w l f).extractLsb' 28 4 = f.cond.bits := by
  unfold encodeRegPost
  apply BitVec.eq_of_getLsbD_eq
  intro i hi
  simp only [BitVec.getLsbD_extractLsb', BitVec.getLsbD_append]
  interval_cases i <;> simp

theorem cond_of_encodeMul (a : Bool) (f : MulFields) : (encodeMul a f).extractLsb' 28 4 = f.cond.bits := by
  unfold encodeMul
  apply BitVec.eq_of_getLsbD_eq
  intro i hi
  simp only [BitVec.getLsbD_extractLsb', BitVec.getLsbD_append]
  interval_cases i <;> simp

theorem cond_of_encodeMull (u a : Bool) (f : MullFields) : (encodeMull u a f).extractLsb' 28 4 = f.cond.bits := by
  unfold encodeMull
  apply BitVec.eq_of_getLsbD_eq
  intro i hi
  simp only [BitVec.getLsbD_extractLsb', BitVec.getLsbD_append]
  interval_cases i <;> simp

theorem cond_of_encodeSwp (b : Bool) (f : SwpFields) : (encodeSwp b f).extractLsb' 28 4 = f.cond.bits := by
  unfold encodeSwp
  apply BitVec.eq_of_getLsbD_eq
  intro i hi
  simp only [BitVec.getLsbD_extractLsb', BitVec.getLsbD_append]
  interval_cases i <;> simp

theorem cond_of_encodeHsImm (l : Bool) (sh : BitVec 2) (f : HsImmFields) : (encodeHsImm l sh f).extractLsb' 28 4 = f.cond.bits := by
  unfold encodeHsImm
  apply BitVec.eq_of_getLsbD_eq
  intro i hi
  simp only [BitVec.getLsbD_extractLsb', BitVec.getLsbD_append]
  interval_cases i <;> simp

theorem cond_of_encodeHsReg (l : Bool) (sh : BitVec 2) (f : HsRegFields) : (encodeHsReg l sh f).extractLsb' 28 4 = f.cond.bits := by
  unfold encodeHsReg
  apply BitVec.eq_of_getLsbD_eq
  intro i hi
  simp only [BitVec.getLsbD_extractLsb', BitVec.getLsbD_append]
  interval_cases i <;> simp

theorem cond_of_encodeMsrReg (p : Bool) (f : MsrRegFields) : (encodeMsrReg p f).extractLsb' 28 4 = f.cond.bits := by
  unfold encodeMsrReg
  apply BitVec.eq_of_getLsbD_eq
  intro i hi
  simp only [BitVec.getLsbD_extractLsb', BitVec.getLsbD_append]
  interval_cases i <;> simp

theorem cond_of_encodeDpImm (op : AluOp) (f : DpImmFields) : (encodeDpImm op f).extractLsb' 28 4 = f.cond.bits := by
  unfold encodeDpImm
  apply BitVec.eq_of_getLsbD_eq
  intro i hi
  simp only [BitVec.getLsbD_extractLsb', BitVec.getLsbD_append]
  interval_cases i <;> simp

theorem cond_of_encodeDpShift (op : AluOp) (f : DpShiftFields) : (encodeDpShift op f).extractLsb' 28 4 = f.cond.bits := by
  unfold encodeDpShift
  apply BitVec.eq_of_getLsbD_eq
  intro i hi
  simp only [BitVec.getLsbD_extractLsb', BitVec.getLsbD_append]
  interval_cases i <;> simp

theorem cond_of_encodeDpReg (op : AluOp) (f : DpRegFields) : (encodeDpReg op f).extractLsb' 28 4 = f.cond.bits := by
  unfold encodeDpReg
  apply BitVec.eq_of_getLsbD_eq
  intro i hi
  simp only [BitVec.getLsbD_extractLsb', BitVec.getLsbD_append]
  interval_cases i <;> simp

end Sys2Proof.Laws

namespace Sys2Proof.Laws.CondField

/-- Bits 31:28 of the word are the condition field (R71). -/
def Statement (i : Instr) : Prop := (encode i).extractLsb' 28 4 = i.cond.bits

theorem bx (f : BxFields) : Statement (.bx f) := by
  simp only [Statement, encode, Instr.cond]
  apply BitVec.eq_of_getLsbD_eq
  intro i hi
  simp only [BitVec.getLsbD_extractLsb', BitVec.getLsbD_append]
  interval_cases i <;> simp
theorem b (f : BranchFields) : Statement (.b f) := cond_of_encodeBranch _ _
theorem bl (f : BranchFields) : Statement (.bl f) := cond_of_encodeBranch _ _
theorem swi (f : SwiFields) : Statement (.swi f) := by
  simp only [Statement, encode, Instr.cond]
  apply BitVec.eq_of_getLsbD_eq
  intro i hi
  simp only [BitVec.getLsbD_extractLsb', BitVec.getLsbD_append]
  interval_cases i <;> simp
theorem cdp (f : CdpFields) : Statement (.cdp f) := by
  simp only [Statement, encode, Instr.cond]
  apply BitVec.eq_of_getLsbD_eq
  intro i hi
  simp only [BitVec.getLsbD_extractLsb', BitVec.getLsbD_append]
  interval_cases i <;> simp
theorem mrc (f : CopRegFields) : Statement (.mrc f) := cond_of_encodeCopReg _ _
theorem mcr (f : CopRegFields) : Statement (.mcr f) := cond_of_encodeCopReg _ _
theorem ldc (f : CopDataFields) : Statement (.ldc f) := cond_of_encodeCopData _ _
theorem stc (f : CopDataFields) : Statement (.stc f) := cond_of_encodeCopData _ _
theorem ldmia (f : BlockFields) : Statement (.ldmia f) := cond_of_encodeBlock _ _ _ _ _
theorem ldmib (f : BlockFields) : Statement (.ldmib f) := cond_of_encodeBlock _ _ _ _ _
theorem ldmda (f : BlockFields) : Statement (.ldmda f) := cond_of_encodeBlock _ _ _ _ _
theorem ldmdb (f : BlockFields) : Statement (.ldmdb f) := cond_of_encodeBlock _ _ _ _ _
theorem stmia (f : BlockFields) : Statement (.stmia f) := cond_of_encodeBlock _ _ _ _ _
theorem stmib (f : BlockFields) : Statement (.stmib f) := cond_of_encodeBlock _ _ _ _ _
theorem stmda (f : BlockFields) : Statement (.stmda f) := cond_of_encodeBlock _ _ _ _ _
theorem stmdb (f : BlockFields) : Statement (.stmdb f) := cond_of_encodeBlock _ _ _ _ _
theorem ldmiaUser (f : BlockFields) : Statement (.ldmiaUser f) := cond_of_encodeBlock _ _ _ _ _
theorem ldmibUser (f : BlockFields) : Statement (.ldmibUser f) := cond_of_encodeBlock _ _ _ _ _
theorem ldmdaUser (f : BlockFields) : Statement (.ldmdaUser f) := cond_of_encodeBlock _ _ _ _ _
theorem ldmdbUser (f : BlockFields) : Statement (.ldmdbUser f) := cond_of_encodeBlock _ _ _ _ _
theorem stmiaUser (f : BlockFields) : Statement (.stmiaUser f) := cond_of_encodeBlock _ _ _ _ _
theorem stmibUser (f : BlockFields) : Statement (.stmibUser f) := cond_of_encodeBlock _ _ _ _ _
theorem stmdaUser (f : BlockFields) : Statement (.stmdaUser f) := cond_of_encodeBlock _ _ _ _ _
theorem stmdbUser (f : BlockFields) : Statement (.stmdbUser f) := cond_of_encodeBlock _ _ _ _ _
theorem undefSpace (f : UndefSpaceFields) : Statement (.undefSpace f) := by
  simp only [Statement, encode, Instr.cond]
  apply BitVec.eq_of_getLsbD_eq
  intro i hi
  simp only [BitVec.getLsbD_extractLsb', BitVec.getLsbD_append]
  interval_cases i <;> simp
theorem ldrImmPre (f : ImmPreFields) : Statement (.ldrImmPre f) := cond_of_encodeImmPre _ _ _
theorem ldrImmPost (f : ImmPostFields) : Statement (.ldrImmPost f) := cond_of_encodeImmPost _ _ _ _
theorem ldrtImm (f : ImmPostFields) : Statement (.ldrtImm f) := cond_of_encodeImmPost _ _ _ _
theorem strImmPre (f : ImmPreFields) : Statement (.strImmPre f) := cond_of_encodeImmPre _ _ _
theorem strImmPost (f : ImmPostFields) : Statement (.strImmPost f) := cond_of_encodeImmPost _ _ _ _
theorem strtImm (f : ImmPostFields) : Statement (.strtImm f) := cond_of_encodeImmPost _ _ _ _
theorem ldrbImmPre (f : ImmPreFields) : Statement (.ldrbImmPre f) := cond_of_encodeImmPre _ _ _
theorem ldrbImmPost (f : ImmPostFields) : Statement (.ldrbImmPost f) := cond_of_encodeImmPost _ _ _ _
theorem ldrbtImm (f : ImmPostFields) : Statement (.ldrbtImm f) := cond_of_encodeImmPost _ _ _ _
theorem strbImmPre (f : ImmPreFields) : Statement (.strbImmPre f) := cond_of_encodeImmPre _ _ _
theorem strbImmPost (f : ImmPostFields) : Statement (.strbImmPost f) := cond_of_encodeImmPost _ _ _ _
theorem strbtImm (f : ImmPostFields) : Statement (.strbtImm f) := cond_of_encodeImmPost _ _ _ _
theorem ldrRegPre (f : RegPreFields) : Statement (.ldrRegPre f) := cond_of_encodeRegPre _ _ _
theorem ldrRegPost (f : RegPostFields) : Statement (.ldrRegPost f) := cond_of_encodeRegPost _ _ _ _
theorem ldrtReg (f : RegPostFields) : Statement (.ldrtReg f) := cond_of_encodeRegPost _ _ _ _
theorem strRegPre (f : RegPreFields) : Statement (.strRegPre f) := cond_of_encodeRegPre _ _ _
theorem strRegPost (f : RegPostFields) : Statement (.strRegPost f) := cond_of_encodeRegPost _ _ _ _
theorem strtReg (f : RegPostFields) : Statement (.strtReg f) := cond_of_encodeRegPost _ _ _ _
theorem ldrbRegPre (f : RegPreFields) : Statement (.ldrbRegPre f) := cond_of_encodeRegPre _ _ _
theorem ldrbRegPost (f : RegPostFields) : Statement (.ldrbRegPost f) := cond_of_encodeRegPost _ _ _ _
theorem ldrbtReg (f : RegPostFields) : Statement (.ldrbtReg f) := cond_of_encodeRegPost _ _ _ _
theorem strbRegPre (f : RegPreFields) : Statement (.strbRegPre f) := cond_of_encodeRegPre _ _ _
theorem strbRegPost (f : RegPostFields) : Statement (.strbRegPost f) := cond_of_encodeRegPost _ _ _ _
theorem strbtReg (f : RegPostFields) : Statement (.strbtReg f) := cond_of_encodeRegPost _ _ _ _
theorem mul (f : MulFields) : Statement (.mul f) := cond_of_encodeMul _ _
theorem mla (f : MulFields) : Statement (.mla f) := cond_of_encodeMul _ _
theorem umull (f : MullFields) : Statement (.umull f) := cond_of_encodeMull _ _ _
theorem umlal (f : MullFields) : Statement (.umlal f) := cond_of_encodeMull _ _ _
theorem smull (f : MullFields) : Statement (.smull f) := cond_of_encodeMull _ _ _
theorem smlal (f : MullFields) : Statement (.smlal f) := cond_of_encodeMull _ _ _
theorem swp (f : SwpFields) : Statement (.swp f) := cond_of_encodeSwp _ _
theorem swpb (f : SwpFields) : Statement (.swpb f) := cond_of_encodeSwp _ _
theorem ldrhImm (f : HsImmFields) : Statement (.ldrhImm f) := cond_of_encodeHsImm _ _ _
theorem strhImm (f : HsImmFields) : Statement (.strhImm f) := cond_of_encodeHsImm _ _ _
theorem ldrsbImm (f : HsImmFields) : Statement (.ldrsbImm f) := cond_of_encodeHsImm _ _ _
theorem ldrshImm (f : HsImmFields) : Statement (.ldrshImm f) := cond_of_encodeHsImm _ _ _
theorem strsbImm (f : HsImmFields) : Statement (.strsbImm f) := cond_of_encodeHsImm _ _ _
theorem strshImm (f : HsImmFields) : Statement (.strshImm f) := cond_of_encodeHsImm _ _ _
theorem ldrhReg (f : HsRegFields) : Statement (.ldrhReg f) := cond_of_encodeHsReg _ _ _
theorem strhReg (f : HsRegFields) : Statement (.strhReg f) := cond_of_encodeHsReg _ _ _
theorem ldrsbReg (f : HsRegFields) : Statement (.ldrsbReg f) := cond_of_encodeHsReg _ _ _
theorem ldrshReg (f : HsRegFields) : Statement (.ldrshReg f) := cond_of_encodeHsReg _ _ _
theorem strsbReg (f : HsRegFields) : Statement (.strsbReg f) := cond_of_encodeHsReg _ _ _
theorem strshReg (f : HsRegFields) : Statement (.strshReg f) := cond_of_encodeHsReg _ _ _
theorem undefMul (f : UndefMulFields) : Statement (.undefMul f) := by
  simp only [Statement, encode, Instr.cond]
  apply BitVec.eq_of_getLsbD_eq
  intro i hi
  simp only [BitVec.getLsbD_extractLsb', BitVec.getLsbD_append]
  interval_cases i <;> simp
theorem mrs (f : MrsFields) : Statement (.mrs f) := by
  simp only [Statement, encode, Instr.cond]
  apply BitVec.eq_of_getLsbD_eq
  intro i hi
  simp only [BitVec.getLsbD_extractLsb', BitVec.getLsbD_append]
  interval_cases i <;> simp
theorem msrCpsr (f : MsrRegFields) : Statement (.msrCpsr f) := cond_of_encodeMsrReg _ _
theorem msrSpsr (f : MsrRegFields) : Statement (.msrSpsr f) := cond_of_encodeMsrReg _ _
theorem msrFlags (f : MsrFlagsFields) : Statement (.msrFlags f) := by
  simp only [Statement, encode, Instr.cond]
  apply BitVec.eq_of_getLsbD_eq
  intro i hi
  simp only [BitVec.getLsbD_extractLsb', BitVec.getLsbD_append]
  interval_cases i <;> simp
theorem undefPsr (f : UndefPsrFields) : Statement (.undefPsr f) := by
  simp only [Statement, encode, Instr.cond]
  apply BitVec.eq_of_getLsbD_eq
  intro i hi
  simp only [BitVec.getLsbD_extractLsb', BitVec.getLsbD_append]
  interval_cases i <;> simp
theorem andImm (f : DpImmFields) : Statement (.andImm f) := cond_of_encodeDpImm _ _
theorem andShift (f : DpShiftFields) : Statement (.andShift f) := cond_of_encodeDpShift _ _
theorem andReg (f : DpRegFields) : Statement (.andReg f) := cond_of_encodeDpReg _ _
theorem eorImm (f : DpImmFields) : Statement (.eorImm f) := cond_of_encodeDpImm _ _
theorem eorShift (f : DpShiftFields) : Statement (.eorShift f) := cond_of_encodeDpShift _ _
theorem eorReg (f : DpRegFields) : Statement (.eorReg f) := cond_of_encodeDpReg _ _
theorem subImm (f : DpImmFields) : Statement (.subImm f) := cond_of_encodeDpImm _ _
theorem subShift (f : DpShiftFields) : Statement (.subShift f) := cond_of_encodeDpShift _ _
theorem subReg (f : DpRegFields) : Statement (.subReg f) := cond_of_encodeDpReg _ _
theorem rsbImm (f : DpImmFields) : Statement (.rsbImm f) := cond_of_encodeDpImm _ _
theorem rsbShift (f : DpShiftFields) : Statement (.rsbShift f) := cond_of_encodeDpShift _ _
theorem rsbReg (f : DpRegFields) : Statement (.rsbReg f) := cond_of_encodeDpReg _ _
theorem addImm (f : DpImmFields) : Statement (.addImm f) := cond_of_encodeDpImm _ _
theorem addShift (f : DpShiftFields) : Statement (.addShift f) := cond_of_encodeDpShift _ _
theorem addReg (f : DpRegFields) : Statement (.addReg f) := cond_of_encodeDpReg _ _
theorem adcImm (f : DpImmFields) : Statement (.adcImm f) := cond_of_encodeDpImm _ _
theorem adcShift (f : DpShiftFields) : Statement (.adcShift f) := cond_of_encodeDpShift _ _
theorem adcReg (f : DpRegFields) : Statement (.adcReg f) := cond_of_encodeDpReg _ _
theorem sbcImm (f : DpImmFields) : Statement (.sbcImm f) := cond_of_encodeDpImm _ _
theorem sbcShift (f : DpShiftFields) : Statement (.sbcShift f) := cond_of_encodeDpShift _ _
theorem sbcReg (f : DpRegFields) : Statement (.sbcReg f) := cond_of_encodeDpReg _ _
theorem rscImm (f : DpImmFields) : Statement (.rscImm f) := cond_of_encodeDpImm _ _
theorem rscShift (f : DpShiftFields) : Statement (.rscShift f) := cond_of_encodeDpShift _ _
theorem rscReg (f : DpRegFields) : Statement (.rscReg f) := cond_of_encodeDpReg _ _
theorem tstImm (f : CmpImmFields) : Statement (.tstImm f) := cond_of_encodeDpImm _ _
theorem tstShift (f : CmpShiftFields) : Statement (.tstShift f) := cond_of_encodeDpShift _ _
theorem tstReg (f : CmpRegFields) : Statement (.tstReg f) := cond_of_encodeDpReg _ _
theorem teqImm (f : CmpImmFields) : Statement (.teqImm f) := cond_of_encodeDpImm _ _
theorem teqShift (f : CmpShiftFields) : Statement (.teqShift f) := cond_of_encodeDpShift _ _
theorem teqReg (f : CmpRegFields) : Statement (.teqReg f) := cond_of_encodeDpReg _ _
theorem cmpImm (f : CmpImmFields) : Statement (.cmpImm f) := cond_of_encodeDpImm _ _
theorem cmpShift (f : CmpShiftFields) : Statement (.cmpShift f) := cond_of_encodeDpShift _ _
theorem cmpReg (f : CmpRegFields) : Statement (.cmpReg f) := cond_of_encodeDpReg _ _
theorem cmnImm (f : CmpImmFields) : Statement (.cmnImm f) := cond_of_encodeDpImm _ _
theorem cmnShift (f : CmpShiftFields) : Statement (.cmnShift f) := cond_of_encodeDpShift _ _
theorem cmnReg (f : CmpRegFields) : Statement (.cmnReg f) := cond_of_encodeDpReg _ _
theorem orrImm (f : DpImmFields) : Statement (.orrImm f) := cond_of_encodeDpImm _ _
theorem orrShift (f : DpShiftFields) : Statement (.orrShift f) := cond_of_encodeDpShift _ _
theorem orrReg (f : DpRegFields) : Statement (.orrReg f) := cond_of_encodeDpReg _ _
theorem movImm (f : DpImmFields) : Statement (.movImm f) := cond_of_encodeDpImm _ _
theorem movShift (f : DpShiftFields) : Statement (.movShift f) := cond_of_encodeDpShift _ _
theorem movReg (f : DpRegFields) : Statement (.movReg f) := cond_of_encodeDpReg _ _
theorem bicImm (f : DpImmFields) : Statement (.bicImm f) := cond_of_encodeDpImm _ _
theorem bicShift (f : DpShiftFields) : Statement (.bicShift f) := cond_of_encodeDpShift _ _
theorem bicReg (f : DpRegFields) : Statement (.bicReg f) := cond_of_encodeDpReg _ _
theorem mvnImm (f : DpImmFields) : Statement (.mvnImm f) := cond_of_encodeDpImm _ _
theorem mvnShift (f : DpShiftFields) : Statement (.mvnShift f) := cond_of_encodeDpShift _ _
theorem mvnReg (f : DpRegFields) : Statement (.mvnReg f) := cond_of_encodeDpReg _ _

end Sys2Proof.Laws.CondField
end

