-- ==== Sys2Proof/Laws/Transfer.lean ====
section
/-! SUPPORT. Operands and addresses after the prefetch (which they do not depend on), the value a load extends, and the
bytes a bus write to the flat memory leaves. -/

namespace Sys2Proof.Laws

open Sys2Proof Sys2Proof.Machine

/-- Operand 2 does not depend on the prefetch. -/
theorem operand2_prefetched (o : Operand2) (s : State) : o.eval (prefetched s) = o.eval s := by cases o <;> rfl

/-- The cycles operand 2 charges, as the descriptor counts them (R162, R350). -/
theorem operand2_charge (op : AluOp) (f : Bool) (rn rd : RegIx) (o : Operand2) (s : State) :
    o.charge s = { s with icycles := s.icycles + (Descriptor.dataProcessing op f rn rd o).internalCycles } := by
  cases o <;> rfl

/-- The offset does not depend on the prefetch. -/
theorem offset_prefetched (o : Offset) (s : State) : o.eval (prefetched s) = o.eval s := by cases o <;> rfl

theorem ea_prefetched (t : Transfer) (s : State) : t.ea (prefetched s) = t.ea s := by
  simp only [Transfer.ea, offset_prefetched]
  rfl

theorem addr_prefetched (t : Transfer) (s : State) : t.addr (prefetched s) = t.addr s := by
  simp only [Transfer.addr, ea_prefetched]
  rfl

/-- The kinds a store may have (R223). -/
theorem kind_signed (k : TransferKind) : k.signed = true ↔ k = .sbyte ∨ k = .shalf := by
  cases k <;> simp [TransferKind.signed]

/-- The bytes a bus write to the flat memory leaves: the value's, and every other byte as it was (R53, R56). -/
theorem busWriteMem_bytes (s : State) (w : Width) (a v : Word) (ha : s.launch.plain w a = true) :
    (∀ k < w.bytes, (s.busWriteMem w a v).byteAt (a + BitVec.ofNat 32 k) = v.extractLsb' (8 * k) 8) ∧
      ∀ b : Word, w.bytes ≤ (b - a).toNat → (s.busWriteMem w a v).byteAt b = s.mem.byteAt b := by
  cases w with
  | byte =>
    simp only [State.busWriteMem, ha, if_true, Width.bytes]
    refine ⟨fun k hk => ?_, fun b hb => ?_⟩
    · obtain rfl : k = 0 := by omega
      simp [BitVec.extractLsb]
    · rw [byteAt_setByte_other]
      rintro rfl
      simp at hb
  | half =>
    simp only [State.busWriteMem, ha, if_true, Width.bytes]
    refine ⟨fun k hk => ?_, fun b hb => ?_⟩
    · rw [byteAt_setHalf]
      interval_cases k
      · rw [if_pos (by bv_omega)]
        apply BitVec.eq_of_getLsbD_eq
        intro i hi
        simp only [BitVec.getLsbD_extractLsb, BitVec.getLsbD_extractLsb']
        interval_cases i <;> simp
      · rw [if_neg (by bv_omega), if_pos (by bv_omega)]
        apply BitVec.eq_of_getLsbD_eq
        intro i hi
        simp only [BitVec.getLsbD_extractLsb, BitVec.getLsbD_extractLsb']
        interval_cases i <;> simp
    · rw [byteAt_setHalf, if_neg, if_neg] <;> bv_omega
  | word =>
    simp only [State.busWriteMem, ha, if_true, Width.bytes]
    refine ⟨fun k hk => ?_, fun b hb => ?_⟩
    · rw [byteAt_setWord]
      interval_cases k
      · rw [if_pos (by bv_omega)]; rfl
      · rw [if_neg (by bv_omega), if_pos (by bv_omega)]; rfl
      · rw [if_neg (by bv_omega), if_neg (by bv_omega), if_pos (by bv_omega)]; rfl
      · rw [if_neg (by bv_omega), if_neg (by bv_omega), if_neg (by bv_omega), if_pos (by bv_omega)]; rfl
    · rw [byteAt_setWord, if_neg, if_neg, if_neg, if_neg] <;> bv_omega

end Sys2Proof.Laws
end

