-- ==== Sys2Proof/Laws/Step.lean ====
section
/-! SUPPORT. The rules every handler obeys, said once, through its descriptor: which error it raises, when it flushes, what it
does to the status registers, which bus accesses it makes, how many internal cycles it charges, and that it keeps memory
canonical; then the same of `exec`, and what one `step` is. -/

namespace Sys2Proof.Laws

open Sys2Proof.Machine

/-! ### One handler -/

/-- R318 to R320: a handler's errors are those of the table. -/
theorem handler_error (d : Descriptor) (s : State) (k : ErrorKind) :
    d.handler s = .error k ↔ s.errorOf d = some k := by
  cases d with
  | branchExchange rn => simp [Descriptor.handler, branchExchangeHandler, State.errorOf]
  | branch l x => simp [Descriptor.handler, branchHandler, State.errorOf]
  | swi => simp [Descriptor.handler, swiHandler, State.errorOf]
  | unimplemented => simp [Descriptor.handler, Machine.unimplemented, State.errorOf, eq_comm]
  | block b t =>
    rw [Descriptor.handler, blockTransfer_eq]
    cases b
    · simp only [State.errorOf, HandlerResult.flushIf, Bool.false_eq_true, if_false]
      split
      · simp
      · split <;> simp
    · simp [State.errorOf]
  | single t =>
    rw [Descriptor.handler, singleTransfer_eq]
    simp only [State.errorOf, HandlerResult.flushIf, kind_signed]
    split
    · simp
    · split
      · simp
      · split
        · simp
        · split <;> simp
  | msr p rm =>
    cases p
    · simp only [Descriptor.handler, msrCpsrHandler, State.errorOf]
      by_cases h : s.launch.msrUserRestrict = true ∧ s.cpsr.mode = .usr
      · have h' : s.msrRestricted = true := by simpa [State.msrRestricted] using h
        simp [h, h']
      · have h' : s.msrRestricted = false := by
          cases hr : s.msrRestricted with
          | false => rfl
          | true => exact absurd (by simpa [State.msrRestricted] using hr) h
        simp only [if_neg h, h', ← psr_ofWord_eq_none_iff]
        cases Psr.ofWord (s.readReg rm) <;> simp
    · simp only [Descriptor.handler, msrSpsrHandler, State.errorOf, State.spsrCur]
      cases s.cpsr.mode <;> simp [Spsrs.get]
  | dataProcessing op f rn rd o =>
    simp only [Descriptor.handler, Machine.dataProcessing, State.errorOf, statusUpdate, State.returnStatus]
    cases f
    · simp [HandlerResult.flushIf, State.restoresStatus]; split <;> simp
    · by_cases h : s.launch.dpPcSRestoresSpsr = true ∧ rd = 15 ∧ aluWrites op = true
      · have h' : s.restoresStatus (.dataProcessing op true rn rd o) = true := by simp [State.restoresStatus, h]
        simp only [h', if_true, if_pos h]
        cases s.spsrCur with
        | none => simp
        | some v =>
          simp only [Option.bind_some, ← psr_ofWord_eq_none_iff]
          cases Psr.ofWord v <;> simp [HandlerResult.flushIf]
          split <;> simp
      · have h' : s.restoresStatus (.dataProcessing op true rn rd o) = false := by
          simp [State.restoresStatus]; intro h1 h2; simpa [h1, h2] using h
        simp only [h', if_neg h]
        simp [HandlerResult.flushIf]; split <;> simp

/-- The addresses of a block transfer's accesses are those of R263. -/
theorem blockTransfer_addresses (t : BlockTransfer) (s : State) :
    t.addresses t.order (s.readReg t.rn) = t.order.map (t.addrOf (s.readReg t.rn)) :=
  addresses_eq _ _ _ _ (visits_order t _)

/-- R67: a handler has no step exactly when it raises no error and one of its accesses is stuck. -/
theorem handler_stuck (d : Descriptor) (s : State) :
    d.handler s = .stuck ↔ s.errorOf d = none ∧ ∃ x ∈ s.dataAccesses d, s.launch.stuckAccess x = true := by
  cases d with
  | branchExchange rn => simp [Descriptor.handler, branchExchangeHandler, State.dataAccesses]
  | branch l x => simp [Descriptor.handler, branchHandler, State.dataAccesses]
  | swi => simp [Descriptor.handler, swiHandler, State.dataAccesses]
  | unimplemented => simp [Descriptor.handler, Machine.unimplemented, State.dataAccesses]
  | msr p rm =>
    simp only [State.dataAccesses, List.not_mem_nil, false_and, exists_false, and_false, iff_false]
    cases p
    · simp only [Descriptor.handler, msrCpsrHandler]
      split
      · simp
      · split <;> simp
    · simp only [Descriptor.handler, msrSpsrHandler]
      split <;> simp
  | dataProcessing op f rn rd o =>
    simp only [State.dataAccesses, List.not_mem_nil, false_and, exists_false, and_false, iff_false]
    simp only [Descriptor.handler, Machine.dataProcessing]
    split
    · simp
    · unfold HandlerResult.flushIf; split <;> simp
  | single t =>
    rw [Descriptor.handler, singleTransfer_eq]
    have hx : (∃ x ∈ s.dataAccesses (.single t), s.launch.stuckAccess x = true) ↔
        s.launch.stuckAt t.kind.width (t.addr s) = true := by
      simp only [State.dataAccesses, List.mem_singleton, exists_eq_left, Launch.stuckAccess]
      cases t.load <;> rfl
    rw [hx]
    simp only [State.errorOf, kind_signed]
    split
    · simp
    · split
      · simp
      · split
        · simp_all
        · unfold HandlerResult.flushIf; split <;> simp_all
  | block b t =>
    rw [Descriptor.handler, blockTransfer_eq]
    have hx : (∃ x ∈ s.dataAccesses (.block b t), s.launch.stuckAccess x = true) ↔
        (t.addresses t.order (s.readReg t.rn)).any (s.launch.stuckAt .word) = true := by
      rw [blockTransfer_addresses]
      simp only [State.dataAccesses, List.mem_map, exists_exists_and_eq_and, List.any_map, List.any_eq_true]
      refine exists_congr fun r => and_congr_right fun _ => ?_
      unfold BlockTransfer.accessOf
      cases t.load <;> rfl
    rw [hx]
    cases b
    · simp only [State.errorOf, Bool.false_eq_true, if_false, true_and]
      split
      · simp_all
      · unfold HandlerResult.flushIf; split <;> simp_all
    · simp [State.errorOf]

/-- The prefetch does not matter to the error. -/
theorem errorOf_prefetched (s : State) (d : Descriptor) : (prefetched s).errorOf d = s.errorOf d := by
  cases d <;> rfl

/-- R106: which action a handler returns. -/
theorem handler_flushes (d : Descriptor) (s : State) :
    (∀ s1, d.handler s = .advance s1 → d.flushes = false) ∧ (∀ s1, d.handler s = .flush s1 → d.flushes = true) := by
  cases d with
  | branchExchange => simp [Descriptor.handler, branchExchangeHandler, Descriptor.flushes]
  | branch => simp [Descriptor.handler, branchHandler, Descriptor.flushes]
  | swi => simp [Descriptor.handler, swiHandler, Descriptor.flushes]
  | unimplemented => simp [Descriptor.handler, Machine.unimplemented]
  | msr p rm => 
    cases p
    · simp only [Descriptor.handler, msrCpsrHandler, Descriptor.flushes]
      split <;> simp
      split <;> simp
    · simp only [Descriptor.handler, msrSpsrHandler, Descriptor.flushes]
      split <;> simp
  | dataProcessing op f rn rd o =>
    simp only [Descriptor.handler, Machine.dataProcessing, Descriptor.flushes]
    split
    · simp
    · unfold HandlerResult.flushIf
      split <;> simp_all
  | single t =>
    rw [Descriptor.handler, singleTransfer_eq]
    simp only [Descriptor.flushes, Transfer.writesBack]
    split
    · simp
    · split
      · simp
      · split
        · simp
        · unfold HandlerResult.flushIf
          split <;> simp_all
  | block b t =>
    rw [Descriptor.handler, blockTransfer_eq]
    simp only [Descriptor.flushes, BlockTransfer.writesBack]
    split
    · simp
    · split
      · simp
      · unfold HandlerResult.flushIf
        split <;> simp_all

/-- What a handler that answers does to the two kinds of status register. -/
theorem handler_status {d : Descriptor} {s s1 : State} (h : d.handler s = .advance s1 ∨ d.handler s = .flush s1) :
    (∃ rn, d = .branchExchange rn ∧ s1.cpsr = { s.cpsr with t := (s.readReg rn).getLsbD 0 } ∧ s1.spsr = s.spsr) ∨
    (d = .swi ∧ s1.cpsr = { s.cpsr with mode := .svc, t := false, i := true } ∧
      s1.spsr = s.spsr.set .svc s.cpsr.toWord) ∨
    (∃ rm v, d = .msr true rm ∧ s.spsrCur = some v ∧ s1.cpsr = s.cpsr ∧
      s1.spsr = s.spsr.set s.cpsr.mode (s.readReg rm)) ∨
    (∃ rm, d = .msr false rm ∧ s1.spsr = s.spsr ∧
      ((s.msrRestricted = true ∧ s1.cpsr = s.cpsr.withFlagsOf (s.readReg rm)) ∨
        (s.msrRestricted = false ∧ Psr.ofWord (s.readReg rm) = some s1.cpsr))) ∨
    (∃ op f rn rd o, d = .dataProcessing op f rn rd o ∧ s1.spsr = s.spsr ∧
      ((s.restoresStatus d = true ∧ s.returnStatus = some s1.cpsr) ∨
        (s.restoresStatus d = false ∧
          s1.cpsr = { s.cpsr with n := s1.cpsr.n, z := s1.cpsr.z, c := s1.cpsr.c, v := s1.cpsr.v }))) ∨
    (((∃ x, d = .single x) ∨ (∃ b x, d = .block b x) ∨ ∃ l x, d = .branch l x) ∧ s1.cpsr = s.cpsr ∧
      s1.spsr = s.spsr) := by
  cases d with
  | branchExchange rn =>
    simp only [Descriptor.handler, branchExchangeHandler] at h
    rcases h with h | h <;> cases h
    exact .inl ⟨rn, rfl, by simp, by simp⟩
  | branch link imm24 =>
    simp only [Descriptor.handler, branchHandler] at h
    rcases h with h | h <;> cases h
    refine .inr (.inr (.inr (.inr (.inr ⟨.inr (.inr ⟨_, _, rfl⟩), ?_⟩))))
    split <;> simp
  | swi =>
    simp only [Descriptor.handler, swiHandler] at h
    rcases h with h | h <;> cases h
    exact .inr (.inl ⟨rfl, rfl, rfl⟩)
  | msr p rm =>
    cases p
    · simp only [Descriptor.handler, msrCpsrHandler] at h
      refine .inr (.inr (.inr (.inl ⟨rm, rfl, ?_⟩)))
      split at h
      · rcases h with h | h <;> cases h
        exact ⟨rfl, .inl ⟨by simpa [State.msrRestricted] using ‹_ ∧ _›, rfl⟩⟩
      · split at h
        · rcases h with h | h <;> cases h
        · rcases h with h | h <;> cases h
          refine ⟨rfl, .inr ⟨?_, ‹_›⟩⟩
          simpa [State.msrRestricted] using ‹¬(_ ∧ _)›
    · simp only [Descriptor.handler, msrSpsrHandler] at h
      split at h
      · rcases h with h | h <;> cases h
      · rcases h with h | h <;> cases h
        exact .inr (.inr (.inl ⟨rm, _, rfl, ‹_›, rfl, rfl⟩))
  | dataProcessing op f rn rd o =>
    simp only [Descriptor.handler, dataProcessing] at h
    refine .inr (.inr (.inr (.inr (.inl ⟨op, f, rn, rd, o, rfl, ?_⟩))))
    have hc : ∀ x : State, (o.charge x).cpsr = x.cpsr ∧ (o.charge x).spsr = x.spsr := by intro x; cases o <;> exact ⟨rfl, rfl⟩
    split at h
    · rcases h with h | h <;> cases h
    · rename_i u hu
      have hs1 : s1.spsr = s.spsr ∧ s1.cpsr = u.apply (alu op (s.readReg rn) (o.eval s).value (o.eval s).carry s.cpsr) s.cpsr := by
        unfold HandlerResult.flushIf at h
        split at h <;> rcases h with h | h <;> cases h <;> dsimp <;> split <;> simp [(hc s).1, (hc s).2]
      refine ⟨hs1.1, ?_⟩
      simp only [statusUpdate] at hu
      split at hu
      · cases hu
        refine .inr ⟨by simp_all [State.restoresStatus], by rw [hs1.2]; rfl⟩
      · split at hu
        · refine .inl ⟨by simp_all [State.restoresStatus], ?_⟩
          rcases hr : s.returnStatus with _ | p <;> rw [hr] at hu <;> simp at hu
          subst hu
          rw [hs1.2]; rfl
        · cases hu
          refine .inr ⟨by simp_all [State.restoresStatus], by rw [hs1.2]; rfl⟩
  | single t =>
    refine .inr (.inr (.inr (.inr (.inr ⟨.inl ⟨_, rfl⟩, ?_⟩))))
    cases singleTransfer_next h
    unfold singleEnd
    constructor <;> dsimp only <;> (repeat' split) <;> simp
  | block b t =>
    refine .inr (.inr (.inr (.inr (.inr ⟨.inr (.inl ⟨_, _, rfl⟩), ?_⟩))))
    cases blockTransfer_next h
    unfold blockEnd
    obtain ⟨-, h1, h2⟩ := block_run_keeps t t.order (s.readReg t.rn) s
    constructor <;> dsimp only <;> split <;> simp [h1, h2]
  | unimplemented =>
    simp only [Descriptor.handler, unimplemented] at h
    rcases h with h | h <;> cases h

/-- R56, R227 and R271: the bus a handler that answers leaves. -/
theorem handler_bus {d : Descriptor} {s s1 : State} (h : d.handler s = .advance s1 ∨ d.handler s = .flush s1) :
    SameBus s1 (s.busAfter (s.dataAccesses d)) := by
  cases d with
  | branchExchange rn =>
    simp only [Descriptor.handler, branchExchangeHandler] at h
    rcases h with h | h <;> cases h
    exact ⟨by simp [State.dataAccesses], by simp [State.dataAccesses], by simp [State.dataAccesses],
      by simp [State.dataAccesses], by simp [State.dataAccesses]⟩
  | branch link imm24 =>
    simp only [Descriptor.handler, branchHandler] at h
    rcases h with h | h <;> cases h
    refine (SameBus.writeReg _ _ _).trans ?_
    split
    · exact SameBus.writeReg _ _ _
    · exact SameBus.refl _
  | swi =>
    simp only [Descriptor.handler, swiHandler] at h
    rcases h with h | h <;> cases h
    exact ⟨rfl, rfl, rfl, rfl, rfl⟩
  | msr p rm =>
    cases p
    · simp only [Descriptor.handler, msrCpsrHandler] at h
      split at h
      · rcases h with h | h <;> cases h
        exact ⟨rfl, rfl, rfl, rfl, rfl⟩
      · split at h
        · rcases h with h | h <;> cases h
        · rcases h with h | h <;> cases h
          exact ⟨rfl, rfl, rfl, rfl, rfl⟩
    · simp only [Descriptor.handler, msrSpsrHandler] at h
      split at h
      · rcases h with h | h <;> cases h
      · rcases h with h | h <;> cases h
        exact ⟨rfl, rfl, rfl, rfl, rfl⟩
  | dataProcessing op f rn rd o =>
    simp only [Descriptor.handler, dataProcessing] at h
    split at h
    · rcases h with h | h <;> cases h
    · cases flushIf_next h
      have hc : ∀ x : State, SameBus (o.charge x) x := by intro x; cases o <;> exact ⟨rfl, rfl, rfl, rfl, rfl⟩
      show SameBus _ s
      have e : ∀ (x : State) (p : Psr), SameBus { x with cpsr := p } x := fun _ _ => ⟨rfl, rfl, rfl, rfl, rfl⟩
      refine (e _ _).trans ?_
      split
      · exact (SameBus.writeReg _ _ _).trans (hc s)
      · exact hc s
  | single t =>
    cases singleTransfer_next h
    have e : SameBus (singleEnd t s) (if t.load = true then s.afterRead t.kind.width (t.addr s)
        else s.busWrite t.kind.width (t.addr s) (s.storeValue t.rd)) := by
      unfold singleEnd
      dsimp only
      split <;> split
      · exact (SameBus.writeReg _ _ _).trans ((SameBus.chargeCycle _).trans (SameBus.writeReg _ _ _))
      · exact SameBus.writeReg _ _ _
      · exact (SameBus.chargeCycle _).trans (SameBus.writeReg _ _ _)
      · exact SameBus.refl _
    refine e.trans ?_
    simp only [State.dataAccesses]
    cases t.load <;> exact SameBus.refl _
  | block b t =>
    cases blockTransfer_next h
    have e : SameBus (blockEnd t s) (t.run t.order (s.readReg t.rn) s).2 := by
      unfold blockEnd
      dsimp only
      split
      · exact SameBus.writeReg _ _ _
      · exact SameBus.refl _
    exact e.trans (run_bus _ _ _ (visits_order t _))
  | unimplemented =>
    simp only [Descriptor.handler, unimplemented] at h
    rcases h with h | h <;> cases h

/-- The prefetch does not matter to the data accesses. -/
theorem dataAccesses_prefetched (s : State) (d : Descriptor) : (prefetched s).dataAccesses d = s.dataAccesses d := by
  cases d with
  | single t => simp only [State.dataAccesses, addr_prefetched]; rfl
  | _ => rfl

/-- R350: a handler's internal cycles. -/
theorem handler_cycles (d : Descriptor) (s s1 : State) 
    (h : d.handler s = .advance s1 ∨ d.handler s = .flush s1) :
   s1.icycles = s.icycles + d.internalCycles := by
  cases d with
  | branchExchange => simp [Descriptor.handler, branchExchangeHandler] at h; subst h; simp [Descriptor.internalCycles]
  | branch l x => simp [Descriptor.handler, branchHandler] at h; subst h; simp [Descriptor.internalCycles]; split <;> simp
  | swi => simp [Descriptor.handler, swiHandler] at h; subst h; simp [Descriptor.internalCycles]
  | unimplemented => simp [Descriptor.handler, Machine.unimplemented] at h
  | msr p rm => 
    cases p
    · simp only [Descriptor.handler, msrCpsrHandler] at h
      split at h
      · rcases h with h | h <;> cases h; simp [Descriptor.internalCycles]
      · split at h <;> rcases h with h | h <;> cases h; simp [Descriptor.internalCycles]
    · simp only [Descriptor.handler, msrSpsrHandler] at h
      split at h <;> rcases h with h | h <;> cases h; simp [Descriptor.internalCycles]
  | dataProcessing op f rn rd o =>
    simp only [Descriptor.handler, Machine.dataProcessing] at h
    split at h
    · rcases h with h | h <;> cases h
    · unfold HandlerResult.flushIf at h
      split at h <;> rcases h with h | h <;> cases h <;> (try dsimp) <;> (try split) <;> cases o <;> first | rfl | simp [Descriptor.internalCycles, Operand2.charge]
  | single t =>
    cases singleTransfer_next h
    unfold singleEnd
    simp only [Descriptor.internalCycles]
    (repeat' split) <;> simp_all
  | block b t =>
    cases blockTransfer_next h
    unfold blockEnd
    have : (t.run t.order (s.readReg t.rn) s).2.icycles = s.icycles + (Descriptor.block b t).internalCycles := by
      cases hl : t.load with
      | true => rw [run_load_icycles hl, length_order]; simp [Descriptor.internalCycles, hl]
      | false => rw [run_store_icycles hl]; simp [Descriptor.internalCycles, hl]
    dsimp only
    split <;> (try simp only [writeReg_icycles]) <;> exact this

/-- A handler keeps memory canonical. -/
theorem handler_mem_wf {d : Descriptor} {s s1 : State} (hw : s.mem.wf)
    (h : d.handler s = .advance s1 ∨ d.handler s = .flush s1) : s1.mem.wf := by
  rw [(handler_bus h).mem]
  exact wf_busAfter _ hw

/-! ### One instruction -/

/-- The prefetch does not matter to the status copy. -/
theorem restoresStatus_prefetched (s : State) (d : Descriptor) : (prefetched s).restoresStatus d = s.restoresStatus d := by
  cases d <;> rfl

/-- What an instruction does to status. -/
theorem exec_status {i : Instr} {s t : State} (h : exec i s = .next t) :
    (t.cpsr = s.cpsr ∧ t.spsr = s.spsr) ∨ conditionPassed i.cond s.cpsr = true ∧
    ∃ s1, ((describe i).handler (prefetched s) = .advance s1 ∨ (describe i).handler (prefetched s) = .flush s1) ∧
      t.cpsr = s1.cpsr ∧ t.spsr = s1.spsr := by
  rcases exec_next h with ⟨-, rfl⟩ | ⟨hc, s1, h1, rfl⟩ | ⟨hc, s1, h1, rfl⟩
  · exact .inl ⟨rfl, rfl⟩
  · exact .inr ⟨hc, s1, .inl h1, rfl, rfl⟩
  · exact .inr ⟨hc, s1, .inr h1, by simp, by simp⟩

/-- What no instruction changes. -/
theorem exec_run {i : Instr} {s t : State} (h : exec i s = .next t) : t.launch = s.launch ∧ t.steps = s.steps ∧ t.err = s.err := by
  rcases exec_next h with ⟨-, rfl⟩ | ⟨-, s1, h1, rfl⟩ | ⟨-, s1, h1, rfl⟩
  · exact ⟨rfl, rfl, rfl⟩
  · have := handler_keeps _ _ _ (.inl h1); exact ⟨this.launch, this.steps, this.err⟩
  · have := handler_keeps _ _ _ (.inr h1); simp [this.launch, this.steps, this.err]

/-- R56, R111, R114 and R271: the bus an instruction leaves when it completes. -/
theorem exec_bus {i : Instr} {s t : State} (h : exec i s = .next t) : SameBus t (s.busAfter (s.accesses i t)) := by
  have own : ∀ {s1 : State}, ((describe i).handler (prefetched s) = .advance s1 ∨
      (describe i).handler (prefetched s) = .flush s1) → conditionPassed i.cond s.cpsr = true →
      SameBus s1 (s.beforeRefill i) := by
    intro s1 h1 hc
    have := handler_bus h1
    rw [dataAccesses_prefetched] at this
    simp only [State.beforeRefill, State.ownAccesses, hc, if_true]
    exact this
  rw [State.accesses, busAfter_append]
  rcases exec_next h with ⟨hc, rfl⟩ | ⟨hc, s1, h1, rfl⟩ | ⟨hc, s1, h1, rfl⟩
  · simp only [State.ownAccesses, hc, Bool.false_eq_true, if_false, false_and]
    exact SameBus.applyAdvance _ _
  · simp only [(handler_flushes (describe i) (prefetched s)).1 _ h1, Bool.false_eq_true, false_and, and_false, if_false]
    exact (SameBus.applyAdvance _ _).trans (own (.inl h1) hc)
  · have hf := (handler_flushes (describe i) (prefetched s)).2 _ h1
    have hb := own (.inr h1) hc
    cases ht : s1.cpsr.t with
    | true =>
      rw [applyFlush_thumb s1 ht]
      simp only [ht, Bool.true_eq_false, and_false, if_false]
      exact ⟨hb.mem, hb.dev, hb.busLog, hb.steps, hb.launch⟩
    | false =>
      rw [applyFlush_arm s1 ht]
      simp only [hc, hf, refill_cpsr, ht, and_self, if_true, refill_ia]
      exact (SameBus.refill _ _).trans (hb.busAfter (refillReads _))

/-- What a flush of an instruction's handler leaves the refill to start from. -/
theorem flush_bus {i : Instr} {s s1 : State} (hc : conditionPassed i.cond s.cpsr = true)
    (h : (describe i).handler (prefetched s) = .flush s1) :
    SameBus s1 (s.beforeRefill i) ∧ s1.refused = (s.beforeRefill i).refused := by
  have := handler_bus (.inr h)
  rw [dataAccesses_prefetched] at this
  refine ⟨by simp only [State.beforeRefill, State.ownAccesses, hc, if_true]; exact this, ?_⟩
  rw [(busOnly_busAfter s _).refused]
  exact (handler_keeps _ _ _ (.inr h)).refused

/-- A flushing handler in ARM state: the refill, relative to the bus the instruction's own accesses leave. -/
theorem flush_refilledAt {i : Instr} {s s1 : State} (hc : conditionPassed i.cond s.cpsr = true)
    (h : (describe i).handler (prefetched s) = .flush s1) (ht : s1.cpsr.t = false) :
    (s.beforeRefill i).RefilledAt s1.applyFlush s1.pcf :=
  refilledAt_applyFlush (flush_bus hc h).1 (flush_bus hc h).2 ht

/-- The memory an instruction leaves is canonical. -/
theorem exec_mem_wf {i : Instr} {s t : State} (hw : s.mem.wf) (h : exec i s = .next t) : t.mem.wf := by
  rw [(exec_bus h).mem]
  exact wf_busAfter _ hw

/-- The accesses of an instruction without data accesses are reads. -/
theorem reads_accesses {i : Instr} {s : State} (h : ∀ x ∈ s.dataAccesses (describe i), Reads x) (t : State) :
    ∀ x ∈ s.accesses i t, Reads x := by
  intro x hx
  simp only [State.accesses, State.ownAccesses, List.mem_append, List.mem_cons] at hx
  rcases hx with (rfl | hx) | hx
  · trivial
  · split at hx
    · exact h x hx
    · cases hx
  · split at hx
    · simp only [refillReads, List.mem_cons, List.not_mem_nil, or_false] at hx
      rcases hx with rfl | rfl <;> trivial
    · cases hx

/-- What an instruction that stores nothing does to memory. -/
theorem exec_keepsMemory {i : Instr} {s t : State} (h : exec i s = .next t)
    (hr : ∀ x ∈ s.dataAccesses (describe i), Reads x) : s.KeepsMemory t (s.accesses i t) :=
  keepsMemory_of_reads (busIs_of_sameBus (exec_bus h)) (reads_accesses hr t)

/-! ### One step -/

/-- When a step begins (R110, R344). -/
theorem noStep_none {s : State} :
    s.noStep = none ↔ s.err = none ∧ s.refused = false ∧ s.launch.stopAddress ≠ some s.ia ∧ s.cpsr.t = false ∧
      s.brokenLaunch = false := by
  unfold State.noStep
  cases s.err with
  | some e => simp
  | none =>
    by_cases h2 : s.refused = true
    · simp [h2]
    · by_cases h3 : s.launch.stopAddress = some s.ia
      · simp [h2, h3]
      · by_cases h4 : s.cpsr.t = true
        · simp [h2, h3, h4]
        · by_cases h5 : s.brokenLaunch = true <;> simp [h2, h3, h4, h5]

/-- A step that does not begin answers no next state. -/
theorem noStep_ne_next (s t : State) : s.noStep ≠ some (.next t) := by
  unfold State.noStep
  cases s.err with
  | some e => simp
  | none =>
    dsimp only
    repeat' split
    all_goals simp

/-- A step that begins is `exec` and the end of the step. -/
theorem step_begins {s : State} (h : s.noStep = none) :
    step s = match exec (decodeWord s.qcur) s with
      | .next s1 => .next s1.endStep
      | .fault f => .fault f
      | .refused r => .refused r := by
  unfold step
  rw [h]
  rfl

/-- A state outside the spec, in terms of its fields (R343, R344). -/
theorem brokenLaunch_false {s : State} :
    s.brokenLaunch = false ↔ s.pcf = s.ia + 8 ∧ s.ia.extractLsb 1 0 = 0 ∧
      (s.steps = 0 → s.prefetchIsTheBus = true ∨ s.isReset = true) := by
  unfold State.brokenLaunch
  simp only [Bool.not_eq_false', Bool.and_eq_true, Bool.or_eq_true, beq_iff_eq, bne_iff_ne, and_assoc]
  by_cases h : s.steps = 0 <;> simp [h]

/-- A clean launch is not outside the spec. -/
theorem brokenLaunch_of_clean {s : State} (h : s.CleanLaunch) : s.brokenLaunch = false := by
  obtain ⟨-, -, -, h1, h2, h3, h4⟩ := h
  refine brokenLaunch_false.mpr ⟨h2, h1, fun _ => .inl ?_⟩
  unfold State.prefetchIsTheBus
  rw [← h3, ← h4]
  simp

/-- A step that answers began, and ran the instruction in `QCUR`. -/
theorem step_next {s t : State} (h : step s = .next t) :
    s.err = none ∧ s.refused = false ∧ s.launch.stopAddress ≠ some s.ia ∧ s.cpsr.t = false ∧ s.brokenLaunch = false ∧
    ∃ s1, exec (decodeWord s.qcur) s = .next s1 ∧ t = s1.endStep := by
  unfold step at h
  split at h
  · rename_i stop hn
    subst h
    exact absurd hn (noStep_ne_next s t)
  · rename_i hn
    obtain ⟨h1, h2, h3, h4, h5⟩ := noStep_none.mp hn
    split at h
    · cases h; exact ⟨h1, h2, h3, h4, h5, _, ‹_›, rfl⟩
    · cases h
    · cases h

/-- The three ends of a step. -/
theorem endStep_cases (t : State) :
  (t.refused = true ∧ t.endStep = { t with steps := t.steps + 1 }) ∨
  (t.refused = false ∧ (
   ((t.launch.interruptSource (t.steps + 1)).fiq = true ∧ t.cpsr.f = false ∧
    t.endStep = (({ t with steps := t.steps + 1 } : State).enterException .fiq (t.ia + 4)).applyFlush) ∨
   (¬((t.launch.interruptSource (t.steps + 1)).fiq = true ∧ t.cpsr.f = false) ∧ (t.launch.interruptSource (t.steps + 1)).irq = true ∧ t.cpsr.i = false ∧
    t.endStep = (({ t with steps := t.steps + 1 } : State).enterException .irq (t.ia + 4)).applyFlush) ∨
   (¬((t.launch.interruptSource (t.steps + 1)).fiq = true ∧ t.cpsr.f = false) ∧ ¬((t.launch.interruptSource (t.steps + 1)).irq = true ∧ t.cpsr.i = false) ∧
    t.endStep = { t with steps := t.steps + 1 }))) := by
  by_cases hr : t.refused = true
  · exact .inl ⟨hr, if_pos hr⟩
  · have hr' : t.refused = false := by simpa using hr
    refine .inr ⟨hr', ?_⟩
    have e : t.endStep = ({ t with steps := t.steps + 1 } : State).sampleInterrupts := if_neg hr
    rw [e]
    by_cases h1 : (t.launch.interruptSource (t.steps + 1)).fiq = true ∧ t.cpsr.f = false
    · exact .inl ⟨h1.1, h1.2, if_pos h1⟩
    · by_cases h2 : (t.launch.interruptSource (t.steps + 1)).irq = true ∧ t.cpsr.i = false
      · exact .inr (.inl ⟨h1, h2.1, h2.2, (if_neg h1).trans (if_pos h2)⟩)
      · exact .inr (.inr ⟨h1, h2, (if_neg h1).trans (if_neg h2)⟩)

/-- The flush that follows an exception entry. -/
theorem enter_flush (s : State) (k : ExceptionClass) (lr : Word) :
    s.RefilledAt (s.enterException k lr).applyFlush k.vector :=
  refilledAt_applyFlush (s1 := s.enterException k lr) ⟨rfl, rfl, rfl, rfl, rfl⟩ rfl rfl

end Sys2Proof.Laws
end

