-- ==== Sys2Proof/Laws/Reset.lean ====
section
/-! SUPPORT. The reset procedure (R340) as one refill, and the literal `State.reset` held against it. -/

namespace Sys2Proof.Laws

open Sys2Proof.Machine

/-- `State.reset` is the reset procedure at the draw of zeros and the default launch, with nothing in memory (log entries 1
and 2). -/
theorem reset_is_the_reset_procedure : State.reset = resetProcedure ResetDraw.zeros Launch.default := by decide

/-- The memory of `State.reset` is in canonical form. -/
theorem reset_mem_wf : State.reset.mem.wf := by decide

/-- The procedure is a refill at address 0. -/
theorem resetProcedure_eq (d : ResetDraw) (l : Launch) : resetProcedure d l = (d.beforeRefill l).refill 0 := by
  have h : (d.beforeRefill l).pcf &&& 0xFFFFFFFC = 0 := by show (0 : Word) &&& 0xFFFFFFFC = 0; decide
  rw [resetProcedure, applyFlush_arm _ rfl, h]

@[simp] theorem resetProcedure_launch (d : ResetDraw) (l : Launch) : (resetProcedure d l).launch = l := by
  rw [resetProcedure_eq]; rfl

/-- The draw can be read off the state the procedure leaves. -/
@[simp] theorem resetProcedure_resetDraw (d : ResetDraw) (l : Launch) : (resetProcedure d l).resetDraw = d := by
  rw [resetProcedure_eq]; rfl

/-- `isReset` says of a state that `Reset` produces it, with some draw. -/
theorem isReset_iff {s : State} : s.isReset = true ↔ ∃ d, s = resetProcedure d s.launch := by
  unfold State.isReset
  rw [decide_eq_true_iff]
  refine ⟨fun h => ⟨_, h⟩, ?_⟩
  rintro ⟨d, h⟩
  have hd : s.resetDraw = d := by rw [h, resetProcedure_resetDraw]
  rw [hd]; exact h

/-- The refill of a reset whose addresses 0 and 4 are in the flat memory. -/
theorem reset_plain (d : ResetDraw) {l : Launch} (h0 : l.device 0 = false) (h4 : l.device 4 = false) :
    (resetProcedure d l).qcur = l.mem.wordAt 0 ∧ (resetProcedure d l).qnext = l.mem.wordAt 4 ∧
      (resetProcedure d l).mem = l.mem ∧ (resetProcedure d l).dev = l.dev := by
  rw [resetProcedure_eq]
  exact refill_plain (s := d.beforeRefill l) (a := 0) (by decide) h0 h4

/-- The reset procedure keeps a canonical memory canonical. -/
theorem resetProcedure_mem_wf (d : ResetDraw) {l : Launch} (h : l.mem.wf) : (resetProcedure d l).mem.wf := by
  rw [resetProcedure_eq]
  exact wf_busAfter (s := d.beforeRefill l) (refillReads 0) h

/-- A state that `Reset` produces is not outside the spec. -/
theorem resetProcedure_not_broken (d : ResetDraw) (l : Launch) : (resetProcedure d l).brokenLaunch = false := by
  have hr : (resetProcedure d l).isReset = true := isReset_iff.mpr ⟨d, by simp⟩
  rw [brokenLaunch_false]
  refine ⟨?_, ?_, fun _ => .inr hr⟩ <;> rw [resetProcedure_eq] <;> rfl

end Sys2Proof.Laws
end

