-- ==== Sys2Proof/Tests/Slice0.lean ====
section
/-! SUPPORT. Tests of the model: the checks of `WellFormed`, words written out bit by bit from the formats of R74 to R84, one
step of the vectors of 95_test_vectors.md, and a witness for the hypotheses of every statement. -/

namespace Sys2Proof.Tests

open Sys2Proof.Machine

/-! ### Ill-formed terms -/

/-- Bits 27:22 = 000000: a multiply (line 9a of R72), not line 9f. -/
theorem test_undefMul_not_multiply : (Instr.undefMul { cond := .al, hi := 0x00000, lo := 0 }).WellFormed = false := by decide

/-- Bits 27:23 = 00001: a long multiply (line 9b). -/
theorem test_undefMul_not_long : (Instr.undefMul { cond := .al, hi := 0x08000, lo := 0 }).WellFormed = false := by decide

/-- Bits 27:23 = 00010, 21:20 = 00, 11:8 = 0000: a swap (line 9c). -/
theorem test_undefMul_not_swap : (Instr.undefMul { cond := .al, hi := 0x10000, lo := 0 }).WellFormed = false := by decide

/-- The residue itself. -/
theorem test_undefMul_residue : (Instr.undefMul { cond := .al, hi := 0x18000, lo := 0 }).WellFormed = true := by decide

/-- I = 0 with bits 7 and 4 set belongs to line 9. -/
theorem test_msrFlags_not_line9 :
    (Instr.msrFlags { cond := .al, i := false, p := false, source12 := 0x090 }).WellFormed = false := by decide

/-- The words of BX, of line 9, of MRS, of MSR and of the flag form are not line 13's. -/
theorem test_undefPsr_not_other_lines :
    (Instr.undefPsr { cond := .al, i := false, op := 0b01, rest := 0xFFF10 }).WellFormed = false ∧
    (Instr.undefPsr { cond := .al, i := false, op := 0b00, rest := 0x00090 }).WellFormed = false ∧
    (Instr.undefPsr { cond := .al, i := false, op := 0b00, rest := 0xF0000 }).WellFormed = false ∧
    (Instr.undefPsr { cond := .al, i := false, op := 0b01, rest := 0x9F000 }).WellFormed = false ∧
    (Instr.undefPsr { cond := .al, i := true, op := 0b11, rest := 0x8F000 }).WellFormed = false ∧
    (Instr.undefPsr { cond := .al, i := true, op := 0b00, rest := 0x00000 }).WellFormed = true := by decide

/-! ### Words, field by field -/

/-- R79: `cond:0001001011111111111100:01:Rn`. -/
theorem test_decode_bx :
    decodeWord (0xE#4 ++ 0b00010010#8 ++ 0xFFF#12 ++ 0x1#4 ++ 0x7#4) = .bx { cond := .al, rn := 7 } := by decide

/-- R77: `cond:101:L:imm24`. -/
theorem test_decode_b : decodeWord (0x0#4 ++ 0b101#3 ++ 0b0#1 ++ 0x800001#24) = .b { cond := .eq, imm24 := 0x800001 } := by
  decide

/-- R78: `cond:1111:comment24`. -/
theorem test_decode_swi : decodeWord (0xB#4 ++ 0xF#4 ++ 0x123456#24) = .swi { cond := .lt, comment24 := 0x123456 } := by decide

/-- R80: `cond:00010:P:10:1001:1111:00000000:Rm`. -/
theorem test_decode_msr :
    decodeWord (0xE#4 ++ 0b00010#5 ++ 0b0#1 ++ 0b10#2 ++ 0x9#4 ++ 0xF#4 ++ 0x00#8 ++ 0x5#4) =
      .msrCpsr { cond := .al, rm := 5 } := by decide

/-- R74 and R76: `cond:00:I:opcode:S:Rn:Rd:Rs:0:type:1:Rm`, RSC. -/
theorem test_decode_dp_register_shift :
    decodeWord (0xE#4 ++ 0b00#2 ++ 0b0#1 ++ 0b0111#4 ++ 0b1#1 ++ 0x3#4 ++ 0x4#4 ++ 0x5#4 ++ 0b0#1 ++ 0b10#2 ++ 0b1#1 ++ 0x6#4) =
      .rscReg { cond := .al, s := true, rn := 3, rd := 4, rs := 5, type := .asr, rm := 6 } := by decide

/-- R74 and R75: `cond:00:1:opcode:S:Rn:Rd:rot:imm8`, BIC. -/
theorem test_decode_dp_immediate :
    decodeWord (0xC#4 ++ 0b00#2 ++ 0b1#1 ++ 0b1110#4 ++ 0b0#1 ++ 0x3#4 ++ 0x4#4 ++ 0xF#4 ++ 0xA5#8) =
      .bicImm { cond := .gt, s := false, rn := 3, rd := 4, rot := 0xF, imm8 := 0xA5 } := by decide

/-- R74 and R76: `cond:00:I:opcode:S:Rn:Rd:shift_imm:type:0:Rm`, CMP. -/
theorem test_decode_dp_compare :
    decodeWord (0xE#4 ++ 0b00#2 ++ 0b0#1 ++ 0b1010#4 ++ 0b1#1 ++ 0x3#4 ++ 0x0#4 ++ 0b10001#5 ++ 0b01#2 ++ 0b0#1 ++ 0x6#4) =
      .cmpShift { cond := .al, rn := 3, rd := 0, shiftImm := 17, type := .lsr, rm := 6 } := by decide

/-- R81: `cond:01:I:P:U:B:W:L:Rn:Rd:offset`, STRB with a register offset and writeback. -/
theorem test_decode_strb_register :
    decodeWord (0xE#4 ++ 0b01#2 ++ 0b1#1 ++ 0b1#1 ++ 0b0#1 ++ 0b1#1 ++ 0b1#1 ++ 0b0#1 ++ 0x2#4 ++ 0x3#4 ++ 0b00011#5 ++ 0b11#2 ++
        0b0#1 ++ 0x4#4) =
      .strbRegPre { cond := .al, u := false, w := true, rn := 2, rd := 3, shiftImm := 3, type := .ror, rm := 4 } := by decide

/-- R81: P = 0 and W = 1 is the T form (R234). -/
theorem test_decode_ldrbt :
    decodeWord (0xE#4 ++ 0b01#2 ++ 0b0#1 ++ 0b0#1 ++ 0b1#1 ++ 0b1#1 ++ 0b1#1 ++ 0b1#1 ++ 0x2#4 ++ 0x3#4 ++ 0xABC#12) =
      .ldrbtImm { cond := .al, u := true, rn := 2, rd := 3, imm12 := 0xABC } := by decide

/-- R82: `cond:000:P:U:1:W:L:Rn:Rd:imm4H:1:SH:1:imm4L`, LDRSB. -/
theorem test_decode_ldrsb_immediate :
    decodeWord (0xE#4 ++ 0b000#3 ++ 0b1#1 ++ 0b0#1 ++ 0b1#1 ++ 0b1#1 ++ 0b1#1 ++ 0x2#4 ++ 0x3#4 ++ 0x5#4 ++ 0b1#1 ++ 0b10#2 ++
        0b1#1 ++ 0x6#4) =
      .ldrsbImm { cond := .al, p := true, u := false, w := true, rn := 2, rd := 3, imm4H := 5, imm4L := 6 } := by decide

/-- R82: `cond:000:P:U:0:W:L:Rn:Rd:xxxx:1:SH:1:Rm`, STRH. -/
theorem test_decode_strh_register :
    decodeWord (0xE#4 ++ 0b000#3 ++ 0b0#1 ++ 0b1#1 ++ 0b0#1 ++ 0b0#1 ++ 0b0#1 ++ 0x2#4 ++ 0x3#4 ++ 0xF#4 ++ 0b1#1 ++ 0b01#2 ++
        0b1#1 ++ 0x6#4) =
      .strhReg { cond := .al, p := false, u := true, w := false, rn := 2, rd := 3, ignored := 0xF, rm := 6 } := by decide

/-- R83: `cond:100:P:U:S:W:L:Rn:list`, LDMDB with writeback, and STMDA^. -/
theorem test_decode_block :
    decodeWord (0xE#4 ++ 0b100#3 ++ 0b1#1 ++ 0b0#1 ++ 0b0#1 ++ 0b1#1 ++ 0b1#1 ++ 0x2#4 ++ 0x8001#16) =
      .ldmdb { cond := .al, w := true, rn := 2, list := 0x8001 } ∧
    decodeWord (0xE#4 ++ 0b100#3 ++ 0b0#1 ++ 0b0#1 ++ 0b1#1 ++ 0b0#1 ++ 0b0#1 ++ 0x2#4 ++ 0x0001#16) =
      .stmdaUser { cond := .al, w := false, rn := 2, list := 0x0001 } := by decide

/-- R84 and the table: UMLAL, SWPB and MRS. -/
theorem test_decode_unimplemented :
    decodeWord (0xE#4 ++ 0b00001#5 ++ 0b0#1 ++ 0b1#1 ++ 0b1#1 ++ 0x1#4 ++ 0x2#4 ++ 0x3#4 ++ 0b1001#4 ++ 0x4#4) =
      .umlal { cond := .al, s := true, rdHi := 1, rdLo := 2, rs := 3, rm := 4 } ∧
    decodeWord (0xE#4 ++ 0b00010#5 ++ 0b1#1 ++ 0b00#2 ++ 0x1#4 ++ 0x2#4 ++ 0b00001001#8 ++ 0x4#4) =
      .swpb { cond := .al, rn := 1, rd := 2, rm := 4 } ∧
    decodeWord (0xE#4 ++ 0b00010#5 ++ 0b1#1 ++ 0b001111#6 ++ 0x3#4 ++ 0x000#12) = .mrs { cond := .al, p := true, rd := 3 } := by
  decide

/-- R84 and the table: STC, MCR and the undefined space. -/
theorem test_decode_coprocessor :
    decodeWord (0xE#4 ++ 0b110#3 ++ 0b1#1 ++ 0b0#1 ++ 0b1#1 ++ 0b0#1 ++ 0b0#1 ++ 0x1#4 ++ 0x2#4 ++ 0x3#4 ++ 0x45#8) =
      .stc { cond := .al, p := true, u := false, n := true, w := false, rn := 1, crd := 2, cp := 3, offset8 := 0x45 } ∧
    decodeWord (0xE#4 ++ 0b1110#4 ++ 0b010#3 ++ 0b0#1 ++ 0x1#4 ++ 0x2#4 ++ 0x3#4 ++ 0b101#3 ++ 0b1#1 ++ 0x4#4) =
      .mcr { cond := .al, op1 := 2, crn := 1, rd := 2, cp := 3, op2 := 5, crm := 4 } ∧
    decodeWord (0xE#4 ++ 0b011#3 ++ 0x00000#20 ++ 0b1#1 ++ 0x0#4) = .undefSpace { cond := .al, hi := 0, lo := 0 } := by decide

/-- R95: a word that the rows of MUL and of line 9f both match takes the first, MUL's; each row of lines 9f, 12 and 13, and
the last row of line 14, applies to a word of its own. -/
theorem test_first_row :
    [0x00000090, 0x01800090, 0x0128F000, 0x01000000, 0x01E00010].map firstRow =
      [some 50, some 70, some 74, some 75, some 123] ∧
    opcodeTable[50]? = some ⟨"MUL", 0x00000090, 0x0FE000F0, .l9a⟩ ∧
    (opcodeTable[70]?.map fun r => r.covers 0x00000090) = some true := by decide

/-! ### One step of the vectors of 95_test_vectors.md -/

/-- The start of a vector (its section 2), a clean launch: at 0x1000 with the word about to execute and MOV R0, R0 behind
it, in memory and prefetched. -/
def start (word : Word) : State :=
  { State.reset with
    ia := 0x1000
    pcf := 0x1008
    qcur := word
    qnext := 0xE1A00000
    mem := ((State.reset.mem.setWord 0x1000 word).setWord 0x1004 0xE1A00000).setWord 0x1008 0xE1A00000 }

/-- A start with a CPSR image. -/
def withCpsr (s : State) (v : Word) : State :=
  match Psr.ofWord v with
  | some p => { s with cpsr := p }
  | none => s

/-- A start with bytes in memory. -/
def withWord (s : State) (a v : Word) : State := { s with mem := s.mem.setWord a v }

/-- The state a step ends in, when it ends in one. -/
def after (s : State) : Option State :=
  match step s with
  | .next t => some t
  | .fault _ => none
  | .refused _ => none

/-- The error a step raises, and the state it leaves. -/
def errorOf (s : State) : Option (ErrorKind × State) :=
  match step s with
  | .next _ => none
  | .fault (.raised e t) => some (e.kind, t)
  | .fault (.errorSet _) => none
  | .fault .runEnded => none
  | .fault .busStuck => none
  | .fault .brokenLaunch => none
  | .refused _ => none

/-- B6: BL 0x1800. -/
theorem test_bl : (after (start 0xEB0001FE)).map (fun t => (t.regs.lr.svc, t.ia)) = some (0x1004, 0x1800) := by decide

/-- B14: BX R15. -/
theorem test_bx_r15 : (after (start 0xE12FFF1F)).map (fun t => (t.ia, t.cpsr.t)) = some (0x1008, false) := by decide

/-- S1: SWI in usr, here from 0x1000. -/
theorem test_swi :
    (after (withCpsr (start 0xEF000000) 0x60000010)).map (fun t => (t.cpsr.toWord, t.spsr.svc, t.regs.lr.svc, t.ia)) =
      some (0x60000093, 0x60000010, 0x1004, 8) := by decide

/-- M1: MSR CPSR, R0 from svc to irq, with the banks. -/
theorem test_msr_cpsr :
    (after ((start 0xE129F000).writeReg 0 0x92)).map (fun t => (t.cpsr.toWord, t.ia)) = some (0x92, 0x1004) := by decide

/-- M10: MSR SPSR, R1 in usr. -/
theorem test_msr_spsr_usr :
    (errorOf (withCpsr ((start 0xE169F001).writeReg 1 0x10) 0x10)).map (fun t => (t.1, t.2.spsr)) =
      some (.fatalMisuse, State.reset.spsr) := by decide

/-- D1: ANDS R0, R1, R2. -/
theorem test_ands :
    (after (((start 0xE0110002).writeReg 1 0xF0F0F0F0).writeReg 2 0xFF00FF00)).map
        (fun t => (t.readReg 0, t.cpsr.toWord)) = some (0xF000F000, 0x800000D3) := by decide

/-- D12: ADD R0, PC, #4. -/
theorem test_add_pc : (after (start 0xE28F0004)).map (fun t => t.readReg 0) = some 0x100C := by decide

/-- D20: TST R1, R2 keeps V. -/
theorem test_tst :
    (after (withCpsr (((start 0xE1110002).writeReg 1 0xF0).writeReg 2 0x0F) 0x100000D3)).map (fun t => t.cpsr.toWord) =
      some 0x500000D3 := by decide

/-- H10: MOVS R0, R1, RRX with C = 0. -/
theorem test_rrx :
    (after ((start 0xE1B00061).writeReg 1 2)).map (fun t => (t.readReg 0, t.cpsr.toWord)) = some (1, 0x000000D3) := by decide

/-- L1: LDR R0, [R1]. -/
theorem test_ldr :
    (after (withWord ((start 0xE5910000).writeReg 1 0x2000) 0x2000 0xDEADBEEF)).map (fun t => (t.readReg 0, t.icycles)) =
      some (0xDEADBEEF, 1) := by decide

/-- L19 and Q6: LDRB and LDRSB of 0xFF. -/
theorem test_ldrb_ldrsb :
    (after (withWord ((start 0xE5D10000).writeReg 1 0x2000) 0x2000 0xFF)).map (fun t => t.readReg 0) = some 0x000000FF ∧
    (after (withWord ((start 0xE1D100D0).writeReg 1 0x2000) 0x2000 0xFF)).map (fun t => t.readReg 0) = some 0xFFFFFFFF := by
  decide

/-- L27: LDR R1, [R1, #4]! with Rn = Rd. -/
theorem test_ldr_writeback_onto_destination :
    (errorOf ((start 0xE5B11004).writeReg 1 0x2000)).map (fun t => (t.1, t.2.readReg 1)) =
      some (.illegalInstruction, 0x2000) := by decide

/-- A start on the reference bus (R67). -/
def onFlatBus (s : State) : State := { s with launch := Launch.flatBus }

/-- L17 and Q14: a misaligned word and a misaligned halfword read on the reference bus have no step. -/
theorem test_flat_bus_stuck :
    step (onFlatBus ((start 0xE5910001).writeReg 1 0x2000)) = .fault .busStuck ∧
    step (onFlatBus ((start 0xE1D100B1).writeReg 1 0x2000)) = .fault .busStuck ∧
    (after (onFlatBus ((start 0xE5910000).writeReg 1 0x2000))).map (fun t => t.readReg 0) = some 0 :=
  ⟨rfl, rfl, by decide⟩

/-- A misaligned block store on the reference bus has no step; an empty list makes no access (R267). -/
theorem test_flat_bus_block :
    step (onFlatBus ((start 0xE88D0003).writeReg 13 0x2002)) = .fault .busStuck ∧
    (after (onFlatBus ((start 0xE88D0000).writeReg 13 0x2002))).map (fun t => t.ia) = some 0x1004 :=
  ⟨rfl, by decide⟩

/-- R312: a request at every third boundary, for ever (D21). -/
theorem test_periodic_source :
    (Source.cycle [{ irq := true, fiq := false }, { irq := false, fiq := false }, { irq := false, fiq := false }]).linesAt
      3000000 = { irq := true, fiq := false } ∧
    (Source.cycle [{ irq := true, fiq := false }, { irq := false, fiq := false }, { irq := false, fiq := false }]).linesAt
      3000001 = { irq := false, fiq := false } := by decide

/-- Q10: LDRH R0, [R1, #-2]!. -/
theorem test_ldrh :
    (after (withWord ((start 0xE17100B2).writeReg 1 0x2002) 0x2000 0x8001)).map (fun t => (t.readReg 0, t.readReg 1)) =
      some (0x8001, 0x2000) := by decide

/-- K8: STMDA R13!, {R0-R2}: R0 at the lowest address. -/
theorem test_stmda :
    (after (((((start 0xE82D0007).writeReg 0 0xA0).writeReg 1 0xA1).writeReg 2 0xA2).writeReg 13 0x2000)).map
        (fun t => (t.mem.wordAt 0x1FF8, t.mem.wordAt 0x1FFC, t.mem.wordAt 0x2000, t.readReg 13)) =
      some (0xA0, 0xA1, 0xA2, 0x1FF4) := by decide

/-- K11: LDMIA R1!, R0 and R1: the base in the list keeps the loaded value. -/
theorem test_ldmia_base_in_list :
    (after (withWord (withWord ((start 0xE8B10003).writeReg 1 0x2000) 0x2000 0x10) 0x2004 0x11)).map
        (fun t => (t.readReg 0, t.readReg 1, t.icycles)) = some (0x10, 0x11, 2) := by decide

/-- U1 and U5: MUL and SWP. -/
theorem test_unimplemented :
    (errorOf (start 0xE0000291)).map (fun t => t.1) = some .unimplementedClass ∧
    (errorOf (start 0xE1020091)).map (fun t => t.1) = some .unimplementedClass := by decide

/-- L30: LDRNE with Z = 1. -/
theorem test_failed_condition :
    (after (withCpsr ((start 0x15910000).writeReg 1 0x2000) 0x400000D3)).map (fun t => (t.regs, t.ia, t.icycles)) =
      some (((start 0).writeReg 1 0x2000).regs, 0x1004, 0) := by decide

/-- The first instruction after reset, placed by `withFetchWord`: MOV R0, #1. -/
theorem test_first_instruction :
    (after (State.reset.withFetchWord 32 0xE3A00001)).map (fun t => (t.readReg 0, t.ia)) = some (1, 4) := by decide

/-- U21: launches that break `CleanLaunch` have no step: `QCUR` or `QNEXT` not the word in memory, `PCF ≠ IA + 8`, `IA` not
word-aligned. After a step, a word that a store has changed behind the prefetch executes as fetched (R347). -/
theorem test_broken_launch :
    step { start 0xE3A00001 with qcur := 0xE3A00002 } = .fault .brokenLaunch ∧
    step { start 0xE3A00001 with qnext := 0 } = .fault .brokenLaunch ∧
    step { start 0xE3A00001 with pcf := 0x1004 } = .fault .brokenLaunch ∧
    step { start 0xE3A00001 with ia := 0x1002, pcf := 0x100A } = .fault .brokenLaunch ∧
    (after { start 0xE3A00001 with qcur := 0xE3A00002, steps := 1 }).map (fun t => t.readReg 0) = some 2 :=
  ⟨rfl, rfl, rfl, rfl, by decide⟩

/-! ### Witnesses: a state and operands that meet the hypotheses of each statement, clause by clause -/

/-- `State.reset` in usr. -/
def inUsr : State := { State.reset with cpsr := { State.reset.cpsr with mode := .usr } }

/-- `State.reset` with the R173 switch on, and an SPSR image for svc. -/
def returning (image : Word) : State :=
  { State.reset with
    spsr := { State.reset.spsr with svc := image }
    launch := { Launch.default with dpPcSRestoresSpsr := true } }

/-- `State.reset` with both masks clear and the same lines at every boundary. -/
def requesting (irq fiq : Bool) : State :=
  { State.reset with
    cpsr := { State.reset.cpsr with i := false, f := false }
    launch := { Launch.default with otherwise := .cycle [{ irq := irq, fiq := fiq }] } }

/-- A data-processing format with every field at its highest value but the condition and Rd. -/
def dpImm : DpImmFields := { cond := .al, s := true, rn := 15, rd := 0, rot := 15, imm8 := 0xFF }

theorem witness_DecodeOfEncode :
    (Instr.undefMul { cond := .nv, hi := 0x1F000, lo := 0xF }).WellFormed = true ∧
    (Instr.undefPsr { cond := .nv, i := true, op := 0b11, rest := 0xFFFFF }).WellFormed = true ∧
    (Instr.msrFlags { cond := .nv, i := false, p := true, source12 := 0xF6F }).WellFormed = true := by decide

theorem witness_ClassOfAWord :
    (0x0A000000 : Word) &&& 0x0FFFFFFF = (0xFA000000 : Word) &&& 0x0FFFFFFF ∧
    (decodeWord 0xE11F0000).cls = .dp ∧ bits 0xE11F0000 24 23 = 0b10 := by decide

theorem witness_DataProcessingFields :
    (decodeWord 0xE3FFFFFF).cls = .dp ∧ (decodeWord 0xE1FFFFEF).cls = .dp ∧ (decodeWord 0xE1FFFF7F).cls = .dp := by decide

theorem witness_SingleTransferFields :
    (decodeWord 0xE7FFFFEF).cls = .ldrStr ∧ (decodeWord 0xE5FFFFFF).cls = .ldrStr ∧
    (decodeWord 0xE1FFFFFF).cls = .ldrStrHsImm ∧ (decodeWord 0xE1BFFFFF).cls = .ldrStrHsReg := by decide

theorem witness_OtherFields :
    (decodeWord 0xEBFFFFFF).cls = .bBl ∧ (decodeWord 0xE12FFF1F).cls = .bx ∧ (decodeWord 0xEFFFFFFF).cls = .swi ∧
    (decodeWord 0xE169F00F).cls = .msrReg ∧ (decodeWord 0xE9FFFFFF).cls = .ldmStm := by decide

theorem witness_IgnoredFields :
    (decodeWord 0xE1AF0000).cls = .dp ∧ bits 0xE1AF0000 24 21 = 0b1101 ∧ (decodeWord 0xE3FF0000).cls = .dp ∧
    bits 0xE3FF0000 24 21 = 0b1111 ∧ (decodeWord 0xE150F000).cls = .dp ∧ bits 0xE150F000 24 23 = 0b10 ∧
    (decodeWord 0xE1900FB0).cls = .ldrStrHsReg := by decide

theorem witness_StepRunsTheDecodedInstruction :
    (∃ s t, s.err = none ∧ s.refused = false ∧ s.launch.stopAddress ≠ some s.ia ∧ s.cpsr.t = false ∧
      s.brokenLaunch = false ∧
      decodeWord s.qcur = .movImm { cond := .al, s := false, rn := 0, rd := 0, rot := 0, imm8 := 1 } ∧
      exec (decodeWord s.qcur) s = .next t) ∧
    ∃ s f, s.err = none ∧ s.refused = false ∧ s.launch.stopAddress ≠ some s.ia ∧ s.cpsr.t = false ∧
      s.brokenLaunch = false ∧ exec (decodeWord s.qcur) s = .fault f :=
  ⟨⟨start 0xE3A00001, _, rfl, rfl, by decide, rfl, by decide, by decide, rfl⟩,
    start 0xE0000291, _, rfl, rfl, by decide, rfl, by decide, rfl⟩

theorem witness_CleanLaunchRunsTheBytesAtIa :
    (State.reset.withFetchWord 32 0xEA000002).CleanLaunch ∧ State.reset.launch.device 0 = false ∧ State.reset.launch.stopAddress ≠ some State.reset.ia ∧
    decode [0x02, 0x00, 0x00, 0xEA] = .ok (.b { cond := .al, imm24 := 2 }, []) ∧
    [(State.reset.withFetchWord 32 0xEA000002).mem.byteAt 0, (State.reset.withFetchWord 32 0xEA000002).mem.byteAt 1,
      (State.reset.withFetchWord 32 0xEA000002).mem.byteAt 2, (State.reset.withFetchWord 32 0xEA000002).mem.byteAt 3] =
      [0x02, 0x00, 0x00, 0xEA] := by decide

theorem witness_StepThatDoesNotBegin :
    ({ State.reset with err := some (State.reset.errorRecord .fatalMisuse .dp) } : State).err ≠ none ∧
    ({ State.reset with refused := true } : State).err = none ∧
    ({ State.reset with launch := { Launch.default with stopAddress := some 0 } } : State).launch.stopAddress =
      some State.reset.ia ∧
    (withCpsr State.reset 0xF3).cpsr.t = true ∧ (withCpsr State.reset 0xF3).err = none ∧
    (withCpsr State.reset 0xF3).refused = false := by decide

theorem witness_InterruptsAtTheBoundary :
    (∀ irq fiq, (requesting irq fiq).brokenLaunch = false) ∧
    (∃ t, exec (decodeWord 0) (requesting true true) = .next t ∧ t.refused = false ∧ t.cpsr.f = false ∧
      ((requesting true true).launch.interruptSource 1).fiq = true) ∧
    (∃ t, exec (decodeWord 0) (requesting true false) = .next t ∧ t.refused = false ∧ t.cpsr.i = false ∧
      (requesting true false).launch.interruptSource 1 = { irq := true, fiq := false }) ∧
    ∃ t, exec (decodeWord 0) (requesting false false) = .next t ∧ t.refused = false ∧
      (requesting false false).launch.interruptSource 1 = { irq := false, fiq := false } :=
  ⟨by decide, ⟨_, rfl, by decide⟩, ⟨_, rfl, by decide⟩, _, rfl, by decide⟩

theorem witness_FailedConditionOnlyAdvances :
    conditionPassed .nv State.reset.cpsr = false ∧ conditionPassed .eq State.reset.cpsr = false := by decide

/-- A single transfer that meets nothing special. -/
def ldr : ImmPreFields := { cond := .al, u := true, w := false, rn := 1, rd := 0, imm12 := 0 }

theorem witness_ErrorsAreExactlyThese :
    conditionPassed .al State.reset.cpsr = true ∧
    State.reset.errorOf (describe (.ldrImmPre { ldr with w := true, rn := 0 })) = some .illegalInstruction ∧
    State.reset.errorOf (describe (.mul { cond := .al, s := false, rd := 0, rn := 0, rs := 0, rm := 0 })) =
      some .unimplementedClass ∧
    inUsr.errorOf (describe (.msrSpsr { cond := .al, rm := 0 })) = some .fatalMisuse ∧
    State.reset.errorOf (describe (.ldrImmPre ldr)) = none ∧
    (∀ x ∈ State.reset.dataAccesses (describe (.ldrImmPre ldr)), State.reset.launch.stuckAccess x = false) := by decide

theorem witness_UnimplementedClassesRaise :
    (Instr.mul { cond := .al, s := false, rd := 0, rn := 0, rs := 0, rm := 0 }).cls ∈ unimplementedClasses ∧
    conditionPassed .al State.reset.cpsr = true ∧ conditionPassed .nv State.reset.cpsr = false := by decide

/-- A block transfer with a list of all sixteen registers. -/
def block : BlockFields := { cond := .al, w := true, rn := 13, list := 0xFFFF }

theorem witness_UserBankBlockTransfersRaise :
    Instr.stmdbUser block ∈ [Instr.ldmiaUser block, .ldmibUser block, .ldmdaUser block, .ldmdbUser block,
      .stmiaUser block, .stmibUser block, .stmdaUser block, .stmdbUser block] ∧
    conditionPassed block.cond State.reset.cpsr = true := by decide

/-- A halfword transfer. -/
def half (w : Bool) (rn rd : RegIx) : HsImmFields :=
  { cond := .al, p := true, u := true, w := w, rn := rn, rd := rd, imm4H := 0, imm4L := 2 }

theorem witness_SignedStoresRaise :
    describe (.strsbImm (half true 1 1)) = .single (transferHsImm (half true 1 1) .sbyte false) ∧
    describe (.strshImm (half false 1 0)) = .single (transferHsImm (half false 1 0) .shalf false) ∧
    (transferHsImm (half false 1 0) .shalf false).load = false ∧ conditionPassed .al State.reset.cpsr = true := by decide

theorem witness_WritebackOntoDestinationRaises :
    describe (.ldrhImm (half true 1 1)) = .single (transferHsImm (half true 1 1) .uhalf true) ∧
    (transferHsImm (half true 1 1) .uhalf true).w = true ∧ conditionPassed .al State.reset.cpsr = true ∧
    conditionPassed .nv State.reset.cpsr = false ∧ (transferHsImm (half false 1 1) .uhalf true).w = false := by decide

theorem witness_SignedStoresRaise_without_writeback :
    ∃ e t, exec (.strsbImm (half false 1 1)) State.reset = .fault (.raised e t) := ⟨_, _, rfl⟩

/-- A launch with a window of the lowest sixteen bytes, and its states. -/
def windowed : State :=
  { State.reset with launch := { Launch.default with devices := [{ base := 0, size := 16 }], misaligned := .stuck } }

theorem witness_Executing :
    conditionPassed .al State.reset.cpsr = true ∧ State.reset.Executing ∧ State.reset.ia.extractLsb 1 0 = 0 ∧
    (start 0).Executing := by decide

theorem witness_BranchExchangeResult :
    (State.reset.writeReg 0 0x1800).Executing ∧ ((State.reset.writeReg 0 0x1800).readReg 0).getLsbD 0 = false ∧
    (State.reset.writeReg 0 0x1801).Executing ∧ ((State.reset.writeReg 0 0x1801).readReg 0).getLsbD 0 = true := by decide

theorem witness_MsrSpsrResult :
    State.reset.cpsr.mode ≠ .usr ∧ State.reset.cpsr.mode ≠ .sys ∧ inUsr.cpsr.mode = .usr ∧
    conditionPassed .al inUsr.cpsr = true := by decide

theorem witness_MsrCpsrResult :
    ¬(State.reset.launch.msrUserRestrict = true ∧ State.reset.cpsr.mode = .usr) ∧
    Mode.ofBits (bits ((State.reset.writeReg 0 0x92).readReg 0) 4 0) ≠ none ∧
    Mode.ofBits (bits (State.reset.readReg 0) 4 0) = none := by decide

theorem witness_MsrCpsrResult_restricted :
    ({ inUsr with launch := { Launch.default with msrUserRestrict := true } } : State).launch.msrUserRestrict = true ∧
    ({ inUsr with launch := { Launch.default with msrUserRestrict := true } } : State).cpsr.mode = .usr ∧
    conditionPassed .al inUsr.cpsr = true := by decide

theorem witness_DataProcessingResult :
    describe (.addImm dpImm) = .dataProcessing .add true 15 0 (.imm 15 0xFF) ∧
    describe (.addImm { dpImm with s := false }) = .dataProcessing .add false 15 0 (.imm 15 0xFF) ∧
    aluWrites .add = true ∧ conditionPassed .al State.reset.cpsr = true := by decide

theorem witness_ComparisonResult :
    describe (.cmpImm { cond := .al, rn := 0, rd := 15, rot := 0, imm8 := 0 }) =
      .dataProcessing .cmp true 0 15 (.imm 0 0) ∧ aluWrites .cmp = false := by decide

theorem witness_DataProcessingToPc :
    describe (.movImm { dpImm with rd := 15 }) = .dataProcessing .mov true 15 15 (.imm 15 0xFF) ∧
    State.reset.launch.dpPcSRestoresSpsr = false ∧ aluWrites .mov = true ∧ State.reset.Executing ∧
    describe (.movImm { dpImm with s := false, rd := 15 }) = .dataProcessing .mov false 15 15 (.imm 15 0xFF) := by decide

theorem witness_ReturnRestoresStatus :
    describe (.movImm { dpImm with rd := 15 }) = .dataProcessing .mov true 15 15 (.imm 15 0xFF) ∧
    (returning 0x10).launch.dpPcSRestoresSpsr = true ∧ (returning 0x10).spsrCur = some 0x10 ∧
    Mode.ofBits (bits (0x10 : Word) 4 0) ≠ none ∧ (returning 0x30).spsrCur = some 0x30 ∧
    Mode.ofBits (bits (0x30 : Word) 4 0) ≠ none ∧ (0x30 : Word).getLsbD 5 = true ∧ (returning 0).spsrCur = some 0 ∧
    Mode.ofBits (bits (0 : Word) 4 0) = none ∧
    ({ returning 0 with cpsr := { State.reset.cpsr with mode := .sys } } : State).spsrCur = none := by decide

theorem witness_Shifts :
    (0 : BitVec 5) = 0 ∧ (31 : BitVec 5) ≠ 0 ∧ (31 : Nat) = (if (31 : BitVec 5) = 0 then 32 else (31 : BitVec 5).toNat) ∧
    (32 : Nat) = (if (0 : BitVec 5) = 0 then 32 else (0 : BitVec 5).toNat) ∧ (255 : BitVec 8) ≠ 0 ∧
    (32 : BitVec 8) ≠ 0 := by decide

theorem witness_EffectiveAddress :
    State.reset.Executing ∧ (transferImmPre ldr .word true).offset = .imm12 0 ∧
    (transferHsImm (half false 15 0) .uhalf true).offset = .imm4 0 2 ∧ (transferImmPre ldr .word true).p = true ∧
    (transferImmPre ldr .word true).u = true ∧ (transferImmPre { ldr with u := false } .word true).u = false ∧
    (transferImmPost { cond := .al, u := true, rn := 0, rd := 0, imm12 := 0 } .word true false).p = false := by decide

/-- Accesses of every sort: to the flat memory at both ends of the address space, in a window, misaligned and free, and
stuck. -/
theorem witness_accesses :
    Launch.default.plain .word 0xFFFFFFFC = true ∧ Launch.default.plain .half 0 = true ∧
    windowed.launch.device 15 = true ∧ windowed.launch.device 16 = false ∧ windowed.launch.plain .word 12 = false ∧
    windowed.launch.stuckAt .word 1 = false ∧ windowed.launch.stuckAt .word 17 = true ∧
    windowed.launch.stuckAt .half 0xFFFFFFFF = true ∧ Launch.default.stuckAt .word 1 = false ∧
    Launch.default.plain .word 1 = false := by decide

/-- The clauses of a load: a plain register, a base written back, R15 loaded, R15 written back, and a post-indexed load of
its base. -/
theorem witness_LoadResult :
    describe (.ldrImmPre ldr) = .single (transferImmPre ldr .word true) ∧ State.reset.Executing ∧
    (transferImmPre { ldr with w := true } .word true).writesBack = true ∧
    describe (.ldrImmPre { ldr with rd := 15 }) = .single (transferImmPre { ldr with rd := 15 } .word true) ∧
    (transferImmPre { ldr with w := true, rn := 15 } .word true).writesBack = true ∧
    (transferImmPost { cond := .al, u := true, rn := 0, rd := 0, imm12 := 4 } .word true false).writesBack = true ∧
    (transferImmPost { cond := .al, u := true, rn := 0, rd := 0, imm12 := 4 } .word true false).w = false ∧
    State.reset.launch.stuckAt .word ((transferImmPre ldr .word true).addr State.reset) = false ∧
    (State.reset.afterRead .word 8).busReadValue .word 0 = 0 ∧
    (∀ x ∈ State.reset.accesses (.ldrImmPre ldr) State.reset, State.reset.launch.plainAccess x = true) := by decide

/-- The clauses of a store: aligned at the highest word address, misaligned, R15 as the source and as the base. -/
theorem witness_StoreResult :
    describe (.strImmPre ldr) = .single (transferImmPre ldr .word false) ∧
    aligned .word ((transferImmPre ldr .word false).addr (State.reset.writeReg 1 0xFFFFFFFC)) = true ∧
    aligned .word ((transferImmPre ldr .word false).addr (State.reset.writeReg 1 0xFFFFFFFD)) = false ∧
    (State.reset.writeReg 1 0xFFFFFFFC).Executing ∧
    Launch.default.stuckAt .word 0xFFFFFFFD = false ∧
    (∀ x ∈ (State.reset.writeReg 1 0xFFFFFFFC).accesses (.strImmPre ldr) State.reset,
      Launch.default.plainAccess x = true) ∧
    (transferImmPre { ldr with w := true, rn := 15 } .word false).writesBack = true ∧
    (transferImmPre { ldr with rd := 15 } .word false).rd = 15 := by decide

theorem witness_UserModeTransfersArePlain :
    (1 : RegIx) ≠ 0 ∧ conditionPassed .al State.reset.cpsr = true ∧
    Instr.ldrtImm { cond := .al, u := true, rn := 0, rd := 0, imm12 := 0 } ∈
      [Instr.ldrtImm { cond := .al, u := true, rn := 0, rd := 0, imm12 := 0 }] := by decide

/-- The clauses of a block load: a list without the base and R15, the list of all sixteen, the empty list, and R15 as the
base. -/
theorem witness_LoadMultipleResult :
    describe (.ldmia { block with list := 0x0007 }) = .block false (blockOf { block with list := 0x0007 } true false true) ∧
    (blockOf { block with list := 0x0007 } true false true).list.getLsbD 13 = false ∧
    describe (.ldmdb block) = .block false (blockOf block true true false) ∧
    (blockOf block true true false).list.getLsbD 15 = true ∧ (blockOf { block with list := 0 } true true true).count = 0 ∧
    (blockOf { block with rn := 15, list := 1 } true true true).rn = 15 ∧ State.reset.Executing ∧
    (∀ r : RegIx, State.reset.launch.stuckAt .word ((blockOf block true false true).addrOf 0 r) = false) ∧
    (∀ x ∈ State.reset.ownAccesses (.ldmia block), State.reset.launch.plainAccess x = true) := by decide

theorem witness_StoreMultipleResult :
    describe (.stmdb block) = .block false (blockOf block false true false) ∧
    (State.reset.writeReg 13 0x20).Executing ∧ ((State.reset.writeReg 13 0x20).readReg 13).extractLsb 1 0 = 0 ∧
    (blockOf { block with rn := 15 } false true false).w = true ∧
    (∀ x ∈ (State.reset.writeReg 13 0x20).accesses (.stmdb block) State.reset, Launch.default.plainAccess x = true) ∧
    (∀ r : RegIx, State.reset.launch.stuckAt .word ((blockOf block false true false).addrOf 0x20 r) = false) := by decide

theorem witness_PushThenPopRestores :
    ({ block with list := 0x1FFF } : BlockFields).w = true ∧ ({ block with list := 0x1FFF } : BlockFields).rn ≠ 15 ∧
    (0x1FFF : BitVec 16).getLsbD 13 = false ∧ (0x1FFF : BitVec 16).getLsbD 15 = false ∧
    (State.reset.writeReg 13 0x2000).Executing ∧ State.reset.launch.device 12 = false ∧
    (∀ x ∈ (State.reset.writeReg 13 0x2000).ownAccesses (.stmdb { block with list := 0x1FFF }),
      Launch.default.plainAccess x = true) := by decide

theorem witness_LittleEndian :
    aligned .word 0xFFFFFFFC = true ∧ aligned .half 0xFFFFFFFE = true ∧ 4 ≤ ((0 : Word) - 0xFFFFFFFC).toNat ∧
    2 ≤ ((0 : Word) - 0xFFFFFFFE).toNat ∧ (0 : Word) ≠ 0xFFFFFFFF ∧
    (∀ k < 4, Launch.default.device (0xFFFFFFFC + BitVec.ofNat 32 k) = false) ∧ Launch.default.device 0 = false := by decide

/-- The clauses: an access that is stuck, one in a window and one on the default bus that are not, a plain read. -/
theorem witness_ReferenceBus :
    exec (.ldrImmPre ldr) (windowed.writeReg 1 17) = .fault .busStuck ∧
    (∃ t, exec (.ldrImmPre ldr) (windowed.writeReg 1 1) = .next t) ∧
    (∃ t, exec (.ldrImmPre ldr) (State.reset.writeReg 1 1) = .next t) ∧ Launch.default.misaligned = .free ∧
    aligned .word 0 = true ∧ State.reset.launch.device 0 = false :=
  ⟨rfl, ⟨_, rfl⟩, ⟨_, rfl⟩, by decide⟩

theorem witness_BusAccessesAreExactlyThese :
    (∃ t, exec (.strImmPre ldr) (State.reset.writeReg 1 1) = .next t) ∧
    (∃ e t, exec (.strsbImm (half false 1 0)) State.reset = .fault (.raised e t)) ∧
    State.reset.launch.plain .word 1 = false ∧ windowed.launch.plain .byte 0 = false := ⟨⟨_, rfl⟩, ⟨_, _, rfl⟩, by decide⟩

theorem witness_FlushExactlyWhenR15IsWritten :
    (∃ t, exec (.ldrImmPre ldr) State.reset = .next t ∧ (describe (.ldrImmPre ldr)).flushes = false) ∧
    (∃ t, exec (.bx { cond := .al, rn := 0 }) State.reset = .next t ∧ t.cpsr.t = false ∧
      (describe (.bx { cond := .al, rn := 0 })).flushes = true) ∧
    ∃ t, exec (.bx { cond := .al, rn := 0 }) (State.reset.writeReg 0 1) = .next t ∧ t.cpsr.t = true :=
  ⟨⟨_, rfl, by decide⟩, ⟨_, rfl, by decide⟩, _, rfl, by decide⟩

theorem witness_InternalCyclesAreExactlyThese :
    (∃ t, exec (.ldrImmPre ldr) State.reset = .next t) ∧
    ∃ e t, exec (.strsbImm (half false 1 0)) State.reset = .fault (.raised e t) := ⟨⟨_, rfl⟩, _, _, rfl⟩

theorem witness_ModeChangesOnlyByTheseFour :
    (∃ t, step (withCpsr (start 0xEF000000) 0x10) = .next t ∧ t.cpsr.mode ≠ .usr) ∧
    (∃ t, step ((start 0xE129F000).writeReg 0 0x92) = .next t ∧ t.cpsr.mode ≠ .svc) ∧
    (∃ t, step (requesting false true) = .next t ∧ t.cpsr.mode ≠ (requesting false true).cpsr.mode) ∧
    ∃ t, step (requesting true false) = .next t ∧ t.cpsr.mode ≠ (requesting true false).cpsr.mode :=
  ⟨⟨_, rfl, by decide⟩, ⟨_, rfl, by decide⟩, ⟨_, rfl, by decide⟩, _, rfl, by decide⟩

theorem witness_ExecutionStateWriters :
    (∃ t, exec (.bx { cond := .al, rn := 0 }) (State.reset.writeReg 0 1) = .next t ∧ t.cpsr.t ≠ State.reset.cpsr.t) ∧
    (∃ t, exec (.msrCpsr { cond := .al, rm := 0 }) (State.reset.writeReg 0 0xF3) = .next t ∧
      t.cpsr.t ≠ State.reset.cpsr.t) ∧
    (∃ t, exec (.movImm { dpImm with rd := 15 }) (returning 0x30) = .next t ∧ t.cpsr.t ≠ State.reset.cpsr.t) ∧
    ∃ t, exec (.swi { cond := .al, comment24 := 0 }) (withCpsr State.reset 0xF3) = .next t ∧
      t.cpsr.t ≠ (withCpsr State.reset 0xF3).cpsr.t :=
  ⟨⟨_, rfl, by decide⟩, ⟨_, rfl, by decide⟩, ⟨_, rfl, by decide⟩, _, rfl, by decide⟩

theorem witness_SavedStatusWriters :
    (∃ t, exec (.msrSpsr { cond := .al, rm := 0 }) (State.reset.writeReg 0 0x10) = .next t ∧
      t.spsr.get .svc ≠ State.reset.spsr.get .svc) ∧
    ∃ t, exec (.swi { cond := .al, comment24 := 0 }) State.reset = .next t ∧
      t.spsr.get .svc ≠ State.reset.spsr.get .svc := ⟨⟨_, rfl, by decide⟩, _, rfl, by decide⟩

theorem witness_FlagsAreNotWrittenBy :
    (∃ t, exec (.ldrImmPre ldr) State.reset = .next t) ∧ (∃ t, exec (.stmia block) State.reset = .next t) ∧
    (∃ t, exec (.b { cond := .al, imm24 := 0x800000 }) State.reset = .next t) ∧
    ∃ t, exec (.msrSpsr { cond := .al, rm := 0 }) State.reset = .next t := ⟨⟨_, rfl⟩, ⟨_, rfl⟩, ⟨_, rfl⟩, _, rfl⟩

theorem witness_OtherModesRegistersAreOutOfReach :
    (∃ t, exec (.ldrImmPre ldr) State.reset = .next t) ∧ ∀ j, bank State.reset.cpsr.mode j ≠ some (.fiqHigh 4) := by
  refine ⟨⟨_, rfl⟩, ?_⟩
  decide

/-- The two clauses: MOV R0, R0 twice; and B. -/
theorem witness_StoresBehindThePrefetch :
    (∀ n, (start 0xE1A00000).launch.interruptSource n = { irq := false, fiq := false }) ∧
    (∃ t u, step (start 0xE1A00000) = .next t ∧ step t = .next u ∧
      (describe (decodeWord (start 0xE1A00000).qcur)).flushes = false ∧ (describe (decodeWord t.qcur)).flushes = false) ∧
    ∃ t, step (start 0xEA000002) = .next t ∧ (describe (decodeWord (start 0xEA000002).qcur)).flushes = true ∧
      t.cpsr.t = false ∧ t.launch.device t.ia = false ∧ t.launch.device (t.ia + 4) = false := by
  refine ⟨fun n => ?_, ⟨_, _, rfl, rfl, by decide⟩, _, rfl, by decide⟩
  simp [start, State.reset, Launch.default, Launch.interruptSource, linesAt, Source.linesAt]

theorem witness_EveryStepKeepsCoherence :
    (∃ t, State.reset.Coherent ∧ step State.reset = .next t) ∧
    ∃ t, (start 0xE12FFF10 |>.writeReg 0 1).Coherent ∧ step (start 0xE12FFF10 |>.writeReg 0 1) = .next t ∧
      t.refused = true := ⟨⟨_, by decide, rfl⟩, _, by decide, rfl, by decide⟩

theorem witness_ResetIsACleanLaunch :
    Launch.default.device 0 = false ∧ Launch.default.device 4 = false ∧
    (resetProcedure ResetDraw.zeros { Launch.flatBus with mem := [(0, 1)], dev := 5 }).CleanLaunch := by decide

/-- The clauses: a broken launch, one by each field; and a clean launch with no window. -/
theorem witness_LaunchOutsideTheSpecHasNoStep :
    ({ start 0xE3A00001 with qcur := 0 } : State).steps = 0 ∧ ¬({ start 0xE3A00001 with qcur := 0 } : State).CleanLaunch ∧
    ({ start 0xE3A00001 with qcur := 0 } : State).isReset = false ∧ State.reset.isReset = true ∧
    (start 0xE3A00001).CleanLaunch ∧
    (start 0xE3A00001).launch.device 0 = false ∧ (start 0xE3A00001).launch.device 4 = false ∧
    (start 0xE3A00001).launch.stopAddress ≠ some (start 0xE3A00001).ia ∧
    ({ start 0 with pcf := 0x1004 } : State).pcf ≠ (start 0).ia + 8 ∧
    ({ start 0 with ia := 0x1002 } : State).ia.extractLsb 1 0 ≠ 0 := by decide

theorem witness_ResetIsCoherent : Memory.wf [(0, 1), (0xFFFFFFFF, 0xFF)] := by decide

end Sys2Proof.Tests
end

section
/-! SUPPORT. The state family (10_state.md): what an instruction can do to status, to the registers of other modes and to
the invariant of a run, and the obligations that follow. -/

namespace Sys2Proof.Proofs

open Sys2Proof.Machine Sys2Proof.Laws

/-! ### The invariant of a run (R24, R25, R37, R55) -/

/-- A flush ends in the refused THUMB state or at an aligned address with `PCF` two instructions ahead (R114). -/
theorem coherent_applyFlush {s : State} (hw : s.mem.wf) (he : s.err = none) (hr : s.refused = false) :
    s.applyFlush.Coherent := by
  cases ht : s.cpsr.t with
  | true =>
    rw [applyFlush_thumb s ht]
    exact ⟨hw, he, .inl ⟨rfl, ht⟩⟩
  | false =>
    rw [applyFlush_arm s ht]
    exact ⟨wf_busReadMem _ _ (wf_busReadMem _ _ hw), he, .inr ⟨hr, low_bits_mask s.pcf, rfl⟩⟩

/-- An advance keeps alignment and leaves `PCF` two instructions ahead (R112). -/
theorem coherent_applyAdvance {s : State} (hw : s.mem.wf) (he : s.err = none) (hr : s.refused = false)
    (ha : s.ia.extractLsb 1 0 = 0) (fetched : Word) : (s.applyAdvance fetched).Coherent :=
  ⟨hw, he, .inr ⟨hr, low_bits_add4 ha, rfl⟩⟩

/-- What a handler that answers leaves for the pipeline action: canonical memory, and `ERR`, `REFUSED` and `IA` as they
were when the instruction began. -/
theorem handler_mem_err_refused_ia {d : Descriptor} {s s1 : State} (hw : s.mem.wf)
    (h : d.handler (prefetched s) = .advance s1 ∨ d.handler (prefetched s) = .flush s1) :
    s1.mem.wf ∧ s1.err = s.err ∧ s1.refused = s.refused ∧ s1.ia = s.ia := by
  have hk := handler_keeps d (prefetched s) s1 h
  exact ⟨handler_mem_wf (wf_busReadMem _ _ hw) h, hk.err, hk.refused, hk.ia⟩

/-- An instruction that completes from a coherent state that is not refused leaves a coherent one. -/
theorem coherent_exec {i : Instr} {s t : State} (hs : s.Coherent) (hr : s.refused = false) (h : exec i s = .next t) :
    t.Coherent := by
  obtain ⟨hw, he, ⟨hr', -⟩ | ⟨-, ha, -⟩⟩ := hs
  · exact absurd (hr.symm.trans hr') Bool.false_ne_true
  · rcases exec_next h with ⟨-, rfl⟩ | ⟨-, s1, h1, rfl⟩ | ⟨-, s1, h1, rfl⟩
    · exact coherent_applyAdvance (s := prefetched s) (wf_busReadMem _ _ hw) he hr ha _
    · obtain ⟨hw1, he1, hr1, ha1⟩ := handler_mem_err_refused_ia hw (.inl h1)
      exact coherent_applyAdvance hw1 (he1.trans he) (hr1.trans hr) (ha1 ▸ ha) _
    · obtain ⟨hw1, he1, hr1, -⟩ := handler_mem_err_refused_ia hw (.inr h1)
      exact coherent_applyFlush hw1 (he1.trans he) (hr1.trans hr)

/-- The end of a step, an interrupt entry included, keeps coherence. -/
theorem coherent_endStep {s : State} (hs : s.Coherent) : s.endStep.Coherent := by
  have ⟨hw, he, _⟩ := hs
  rcases endStep_cases s with ⟨-, e⟩ | ⟨hr, ⟨-, -, e⟩ | ⟨-, -, -, e⟩ | ⟨-, -, e⟩⟩ <;> rw [e]
  · exact hs
  · exact coherent_applyFlush hw he hr
  · exact coherent_applyFlush hw he hr
  · exact hs

/-- Settles O55: the instruction keeps the invariant, and so does the end of the step. -/
theorem everyStepKeepsCoherence : Obligations.EveryStepKeepsCoherence := by
  intro s t hs h
  obtain ⟨-, hr, -, -, -, s1, hx, rfl⟩ := step_next h
  exact coherent_endStep (coherent_exec hs hr hx)

/-! ### What an instruction does to status (R23, R29, R31, R33) -/

/-- The ways an instruction whose condition passes can leave the status registers of `t`, from those of `s`: the writers
of R23, R29, R31 and R33, one constructor each. -/
inductive StatusEffect (d : Descriptor) (s t : State) : Prop
  /-- The single and block transfers and the branches write none. -/
  | kept (hd : (∃ x, d = .single x) ∨ (∃ b x, d = .block b x) ∨ ∃ l x, d = .branch l x) (hcpsr : t.cpsr = s.cpsr)
    (hspsr : t.spsr = s.spsr)
  | branchExchange (rn : RegIx) (hd : d = .branchExchange rn)
    (hcpsr : t.cpsr = { s.cpsr with t := (s.readReg rn).getLsbD 0 }) (hspsr : t.spsr = s.spsr)
  | swi (hd : d = .swi) (hcpsr : t.cpsr = { s.cpsr with mode := .svc, t := false, i := true })
    (hspsr : t.spsr = s.spsr.set .svc s.cpsr.toWord)
  | msrSpsr (rm : RegIx) (hd : d = .msr true rm) (hcpsr : t.cpsr = s.cpsr)
    (hspsr : t.spsr = s.spsr.set s.cpsr.mode (s.readReg rm))
  /-- MSR to the CPSR under `MSR_USER_RESTRICT` in usr: the flags only (R142). -/
  | msrFlags (rm : RegIx) (hd : d = .msr false rm) (hcpsr : t.cpsr = s.cpsr.withFlagsOf (s.readReg rm))
    (hspsr : t.spsr = s.spsr)
  | msrCpsr (rm : RegIx) (hd : d = .msr false rm) (hcpsr : Psr.ofWord (s.readReg rm) = some t.cpsr)
    (hspsr : t.spsr = s.spsr)
  /-- The enabled copy of the SPSR (R173). -/
  | restore (hd : s.restoresStatus d = true) (v : Word) (hcur : s.spsrCur = some v) (hcpsr : Psr.ofWord v = some t.cpsr)
    (hspsr : t.spsr = s.spsr)
  /-- Data processing without the copy: at most the flags (R172). -/
  | dataProcessing (op : AluOp) (f : Bool) (rn rd : RegIx) (o : Operand2) (hd : d = .dataProcessing op f rn rd o)
    (hcpsr : t.cpsr = { s.cpsr with n := t.cpsr.n, z := t.cpsr.z, c := t.cpsr.c, v := t.cpsr.v })
    (hspsr : t.spsr = s.spsr)

/-- What a completed instruction does to status: nothing, or, its condition passed, the effect of its class. -/
theorem exec_statusEffect {i : Instr} {s t : State} (h : exec i s = .next t) :
    (t.cpsr = s.cpsr ∧ t.spsr = s.spsr) ∨
      conditionPassed i.cond s.cpsr = true ∧ StatusEffect (describe i) s t := by
  rcases exec_status h with hk | ⟨hcond, s1, h1, hcpsr, hspsr⟩
  · exact .inl hk
  · have heff := handler_status h1
    rw [← hcpsr, ← hspsr, restoresStatus_prefetched] at heff
    refine .inr ⟨hcond, ?_⟩
    rcases heff with ⟨rn, hd, hc, hs⟩ | ⟨hd, hc, hs⟩ | ⟨rm, v, hd, hv, hc, hs⟩ |
      ⟨rm, hd, hs, ⟨-, hc⟩ | ⟨-, hc⟩⟩ | ⟨op, f, rn, rd, o, hd, hs, ⟨hr, hc⟩ | ⟨-, hc⟩⟩ | ⟨hd, hc, hs⟩
    · exact .branchExchange rn hd hc hs
    · exact .swi hd hc hs
    · exact .msrSpsr rm hd hc hs
    · exact .msrFlags rm hd hc hs
    · exact .msrCpsr rm hd hc hs
    · obtain ⟨v, hv, hp⟩ := Option.bind_eq_some_iff.mp hc
      exact .restore hr v hv hp hs
    · exact .dataProcessing op f rn rd o hd hc hs
    · exact .kept hd hc hs

/-- R23: which instructions change the mode. -/
theorem exec_mode_writers {i : Instr} {s t : State} (h : exec i s = .next t) (hm : t.cpsr.mode ≠ s.cpsr.mode) :
    conditionPassed i.cond s.cpsr = true ∧
      ((∃ rm, describe i = .msr false rm) ∨ describe i = .swi ∨ s.restoresStatus (describe i) = true) := by
  rcases exec_statusEffect h with ⟨hc, -⟩ | ⟨hc, heff⟩
  · exact absurd (by rw [hc]) hm
  · refine ⟨hc, ?_⟩
    cases heff with
    | kept _ hcpsr _ => exact absurd (by rw [hcpsr]) hm
    | branchExchange _ _ hcpsr _ => exact absurd (by rw [hcpsr]) hm
    | swi hd _ _ => exact .inr (.inl hd)
    | msrSpsr _ _ hcpsr _ => exact absurd (by rw [hcpsr]) hm
    | msrFlags rm hd _ _ => exact .inl ⟨rm, hd⟩
    | msrCpsr rm hd _ _ => exact .inl ⟨rm, hd⟩
    | restore hd _ _ _ _ => exact .inr (.inr hd)
    | dataProcessing _ _ _ _ _ _ hcpsr _ => exact absurd (by rw [hcpsr]) hm

/-- R115 and R303: the end of a step keeps the mode, or enters that of an interrupt requested at the boundary. -/
theorem endStep_mode (s : State) :
    s.endStep.cpsr.mode = s.cpsr.mode ∨
      ((s.launch.interruptSource (s.steps + 1)).fiq = true ∧ s.endStep.cpsr.mode = .fiq) ∨
      ((s.launch.interruptSource (s.steps + 1)).irq = true ∧ s.endStep.cpsr.mode = .irq) := by
  rcases endStep_cases s with ⟨-, e⟩ | ⟨-, ⟨hq, -, e⟩ | ⟨-, hq, -, e⟩ | ⟨-, -, e⟩⟩ <;> rw [e]
  · exact .inl rfl
  · exact .inr (.inl ⟨hq, by simp [ExceptionClass.mode]⟩)
  · exact .inr (.inr ⟨hq, by simp [ExceptionClass.mode]⟩)
  · exact .inl rfl

/-- Settles O47: the mode changes in the instruction or at the boundary. -/
theorem modeChangesOnlyByTheseFour : Obligations.ModeChangesOnlyByTheseFour := by
  rintro s t i q h hm rfl rfl
  obtain ⟨-, -, -, -, -, s1, hx, rfl⟩ := step_next h
  obtain ⟨hl, hs, -⟩ := exec_run hx
  rcases endStep_mode s1 with he | hq
  · exact .inl (exec_mode_writers hx (he ▸ hm))
  · rw [hl, hs] at hq
    exact .inr hq

/-- Settles O48, by the effect of each class on T. -/
theorem executionStateWriters : Obligations.ExecutionStateWriters := by
  intro i s t h ht
  rcases exec_statusEffect h with ⟨hc, -⟩ | ⟨hc, heff⟩
  · exact absurd (by rw [hc]) ht
  · refine ⟨hc, ?_⟩
    cases heff with
    | kept _ hcpsr _ => exact absurd (by rw [hcpsr]) ht
    | branchExchange rn hd hcpsr _ => exact .inl ⟨rn, hd, by rw [hcpsr]⟩
    | swi hd hcpsr _ => exact .inr (.inr (.inr ⟨hd, by rw [hcpsr]⟩))
    | msrSpsr _ _ hcpsr _ => exact absurd (by rw [hcpsr]) ht
    | msrFlags _ _ hcpsr _ => exact absurd (by rw [hcpsr]; rfl) ht
    | msrCpsr rm hd hcpsr _ =>
      obtain ⟨-, -, -, -, -, -, -, -, hbit⟩ := psr_ofWord_some hcpsr
      exact .inr (.inl ⟨rm, hd, hbit⟩)
    | restore hd v hv hcpsr _ =>
      obtain ⟨-, -, -, -, -, -, -, -, hbit⟩ := psr_ofWord_some hcpsr
      exact .inr (.inr (.inl ⟨hd, v, hv, hbit⟩))
    | dataProcessing _ _ _ _ _ _ hcpsr _ => exact absurd (by rw [hcpsr]) ht

/-- A saved status that a write changed is the one written, and holds the value. -/
theorem spsrs_set_changed {p : Spsrs} {m n : Mode} {v : Word} (h : (p.set m v).get n ≠ p.get n) :
    n = m ∧ (p.set m v).get n = some v := by
  by_cases hmn : m = n
  · subst hmn
    refine ⟨rfl, spsrs_get_set_same p v ⟨?_, ?_⟩⟩ <;> rintro rfl <;> exact h rfl
  · exact absurd (spsrs_get_set_other p v hmn) h

/-- Settles O49: MSR to the SPSR and SWI are the only effects that write a saved status. -/
theorem savedStatusWriters : Obligations.SavedStatusWriters := by
  intro i s t m h hm
  rcases exec_statusEffect h with ⟨-, hs⟩ | ⟨hc, heff⟩
  · exact absurd (by rw [hs]) hm
  · refine ⟨hc, ?_⟩
    cases heff with
    | msrSpsr rm hd _ hspsr =>
      rw [hspsr] at hm ⊢
      exact .inl ⟨rm, hd, spsrs_set_changed hm⟩
    | swi hd _ hspsr =>
      rw [hspsr] at hm ⊢
      exact .inr ⟨hd, spsrs_set_changed hm⟩
    | kept _ _ hspsr | branchExchange _ _ _ hspsr | msrFlags _ _ _ hspsr | msrCpsr _ _ _ hspsr
    | restore _ _ _ _ hspsr | dataProcessing _ _ _ _ _ _ _ hspsr => exact absurd (by rw [hspsr]) hm

/-- Only a data-processing instruction copies the SPSR (R173). -/
theorem restoresStatus_dataProcessing {s : State} {d : Descriptor} (h : s.restoresStatus d = true) :
    ∃ op f rn rd o, d = .dataProcessing op f rn rd o := by
  cases d with
  | dataProcessing op f rn rd o => exact ⟨op, f, rn, rd, o, rfl⟩
  | _ => cases h

/-- Settles O50: of the effects that write a flag, none is of a class named. -/
theorem flagsAreNotWrittenBy : Obligations.FlagsAreNotWrittenBy := by
  intro i s t h hclass
  rcases exec_statusEffect h with ⟨hc, -⟩ | ⟨-, heff⟩
  · simp [hc]
  · cases heff with
    | kept _ hcpsr _ | branchExchange _ _ hcpsr _ | swi _ hcpsr _ | msrSpsr _ _ hcpsr _ => simp [hcpsr]
    | msrFlags _ hd _ _ | msrCpsr _ hd _ _ | dataProcessing _ _ _ _ _ hd _ _ => simp [hd] at hclass
    | restore hr _ _ _ _ =>
      obtain ⟨op, f, rn, rd, o, hd⟩ := restoresStatus_dataProcessing hr
      simp [hd] at hclass

/-! ### The registers of other modes (R22) -/

/-- No index names the physical register `p` in a mode. -/
def OutOfReach (m : Mode) (p : PhysReg) : Prop := ∀ j, bank m j ≠ some p

/-- A write by index leaves the registers out of the mode's reach as they are. -/
theorem writeReg_outOfReach {s : State} {p : PhysReg} (h : OutOfReach s.cpsr.mode p) (i : RegIx) (v : Word) :
    (s.writeReg i v).regs.get p = s.regs.get p := by
  rw [writeReg_get, if_neg (h i)]

/-- So does a write that may not be made. -/
theorem ite_writeReg_outOfReach {s : State} {p : PhysReg} (h : OutOfReach s.cpsr.mode p) (b : Prop) [Decidable b]
    (i : RegIx) (v : Word) : (if b then s.writeReg i v else s).regs.get p = s.regs.get p := by
  split
  · exact writeReg_outOfReach h i v
  · rfl

theorem branch_outOfReach {link : Bool} {imm24 : BitVec 24} {s s1 : State} {p : PhysReg} (hp : OutOfReach s.cpsr.mode p)
    (h : branchHandler link imm24 s = .flush s1) : s1.regs.get p = s.regs.get p := by
  cases h
  refine (writeReg_outOfReach ?_ _ _).trans (ite_writeReg_outOfReach hp _ _ _)
  split
  · rwa [writeReg_cpsr]
  · exact hp

theorem dataProcessing_outOfReach {op : AluOp} {f : Bool} {rn rd : RegIx} {o : Operand2} {s s1 : State} {p : PhysReg}
    (hp : OutOfReach s.cpsr.mode p)
    (h : dataProcessing op f rn rd o s = .advance s1 ∨ dataProcessing op f rn rd o s = .flush s1) :
    s1.regs.get p = s.regs.get p := by
  have hcpsr : (o.charge s).cpsr = s.cpsr := by cases o <;> rfl
  have hregs : (o.charge s).regs = s.regs := by cases o <;> rfl
  unfold dataProcessing at h
  split at h
  · rcases h with h | h <;> cases h
  · cases flushIf_next h
    exact (ite_writeReg_outOfReach (hcpsr ▸ hp) _ _ _).trans (by rw [hregs])

theorem singleEnd_outOfReach {t : Transfer} {s : State} {p : PhysReg} (hp : OutOfReach s.cpsr.mode p) :
    (singleEnd t s).regs.get p = s.regs.get p := by
  unfold singleEnd
  cases t.load with
  | true =>
    refine (ite_writeReg_outOfReach (by simpa using hp) _ _ _).trans ?_
    exact writeReg_outOfReach (s := s.afterRead _ _) hp _ _
  | false => exact ite_writeReg_outOfReach (s := s.busWrite _ _ _) hp _ _ _

theorem blockEnd_outOfReach {t : BlockTransfer} {s : State} {p : PhysReg} (hp : OutOfReach s.cpsr.mode p) :
    (blockEnd t s).regs.get p = s.regs.get p := by
  have hcpsr := (block_run_keeps t t.order (s.readReg t.rn) s).2.1
  unfold blockEnd
  refine (ite_writeReg_outOfReach (hcpsr ▸ hp) _ _ _).trans ?_
  cases hl : t.load with
  | true => exact run_load_other hl _ _ _ _ fun r _ => hp r
  | false => rw [(run_store_regs hl _ _ _).1]

/-- No handler but SWI's, of `R14_svc`, writes a register out of the mode's reach. -/
theorem handler_outOfReach {d : Descriptor} {s s1 : State} {p : PhysReg}
    (h : d.handler s = .advance s1 ∨ d.handler s = .flush s1) (hp : OutOfReach s.cpsr.mode p)
    (hswi : ¬(d = .swi ∧ p = .lr .svc)) : s1.regs.get p = s.regs.get p := by
  cases d with
  | branchExchange rn =>
    rcases h with h | h <;> cases h
    exact writeReg_outOfReach (s := { s with cpsr := { s.cpsr with t := (s.readReg rn).getLsbD 0 } }) hp _ _
  | branch link imm24 =>
    rcases h with h | h
    · cases h
    · exact branch_outOfReach hp h
  | swi =>
    rcases h with h | h <;> cases h
    have hne : PhysReg.lr ExceptionClass.swi.mode.bank ≠ p := fun e => hswi ⟨rfl, e.symm⟩
    rw [enterException_regs, regs_get_set, if_neg hne]
  | msr toSpsr rm =>
    cases toSpsr with
    | false =>
      simp only [Descriptor.handler, msrCpsrHandler] at h
      split at h
      · rcases h with h | h <;> cases h
        rfl
      · split at h <;> rcases h with h | h <;> cases h
        rfl
    | true =>
      simp only [Descriptor.handler, msrSpsrHandler] at h
      split at h <;> rcases h with h | h <;> cases h
      rfl
  | dataProcessing op f rn rd o => exact dataProcessing_outOfReach hp h
  | single t =>
    cases singleTransfer_next h
    exact singleEnd_outOfReach hp
  | block b t =>
    cases blockTransfer_next h
    exact blockEnd_outOfReach hp
  | unimplemented => rcases h with h | h <;> cases h

/-- Settles O51: the handler keeps the registers out of reach, and the pipeline actions write no register. -/
theorem otherModesRegistersAreOutOfReach : Obligations.OtherModesRegistersAreOutOfReach := by
  intro i s t p h hp hswi
  rcases exec_next h with ⟨-, rfl⟩ | ⟨-, s1, h1, rfl⟩ | ⟨-, s1, h1, rfl⟩
  · rfl
  · exact handler_outOfReach (s := prefetched s) (s1 := s1) (.inl h1) hp hswi
  · rw [applyFlush_regs]
    exact handler_outOfReach (s := prefetched s) (.inr h1) hp hswi

/-! ### PSR images (R27, R28, R32) -/

/-- Bit `k` of a PSR image, counted through the fields of R27 from the mode up. -/
theorem psr_toWord_getLsbD (p : Psr) (k : Nat) :
    p.toWord.getLsbD k =
      if k < 5 then p.mode.bits.getLsbD k
      else if k - 5 < 1 then decide (k - 5 = 0) && p.t
      else if k - 6 < 1 then decide (k - 6 = 0) && p.f
      else if k - 7 < 1 then decide (k - 7 = 0) && p.i
      else if k - 8 < 20 then p.reserved.getLsbD (k - 8)
      else if k - 28 < 1 then decide (k - 28 = 0) && p.v
      else if k - 29 < 1 then decide (k - 29 = 0) && p.c
      else if k - 30 < 1 then decide (k - 30 = 0) && p.z
      else decide (k - 31 = 0) && p.n := by
  have happ : p.toWord.getLsbD k = (BitVec.ofBool p.n ++ BitVec.ofBool p.z ++ BitVec.ofBool p.c ++ BitVec.ofBool p.v ++
      p.reserved ++ BitVec.ofBool p.i ++ BitVec.ofBool p.f ++ BitVec.ofBool p.t ++ p.mode.bits).getLsbD k := rfl
  rw [happ]
  simp only [BitVec.getLsbD_append, BitVec.getLsbD_ofBool, Nat.sub_sub]

/-- R27: each field of a PSR is at its place in the image. -/
theorem psr_toWord_fields (p : Psr) :
    p.toWord.getLsbD 31 = p.n ∧ p.toWord.getLsbD 30 = p.z ∧ p.toWord.getLsbD 29 = p.c ∧
      p.toWord.getLsbD 28 = p.v ∧ p.toWord.extractLsb 27 8 = p.reserved ∧ p.toWord.getLsbD 7 = p.i ∧
      p.toWord.getLsbD 6 = p.f ∧ p.toWord.getLsbD 5 = p.t ∧ p.toWord.extractLsb 4 0 = p.mode.bits := by
  have reserved : p.toWord.extractLsb 27 8 = p.reserved := by
    apply BitVec.eq_of_getLsbD_eq
    intro k hk
    have h5 : ¬ 8 + k < 5 := by omega
    have h6 : ¬ 8 + k - 5 < 1 := by omega
    have h7 : ¬ 8 + k - 6 < 1 := by omega
    have h8 : ¬ 8 + k - 7 < 1 := by omega
    have h28 : 8 + k - 8 < 20 := by omega
    rw [BitVec.getLsbD_extractLsb, psr_toWord_getLsbD, if_neg h5, if_neg h6, if_neg h7, if_neg h8, if_pos h28,
      Nat.add_sub_cancel_left, decide_eq_true (by omega), Bool.true_and]
  have mode : p.toWord.extractLsb 4 0 = p.mode.bits := by
    apply BitVec.eq_of_getLsbD_eq
    intro k hk
    rw [BitVec.getLsbD_extractLsb, psr_toWord_getLsbD, Nat.zero_add, if_pos hk, decide_eq_true (by omega), Bool.true_and]
  exact ⟨psr_toWord_getLsbD p 31, psr_toWord_getLsbD p 30, psr_toWord_getLsbD p 29, psr_toWord_getLsbD p 28,
    reserved, psr_toWord_getLsbD p 7, psr_toWord_getLsbD p 6, psr_toWord_getLsbD p 5, mode⟩

/-- The fields of R27 cover the 32 bits: words that agree in each are equal. -/
theorem word_ext_of_psr_fields {x y : Word} (h31 : x.getLsbD 31 = y.getLsbD 31) (h30 : x.getLsbD 30 = y.getLsbD 30)
    (h29 : x.getLsbD 29 = y.getLsbD 29) (h28 : x.getLsbD 28 = y.getLsbD 28) (hres : bits x 27 8 = bits y 27 8)
    (h7 : x.getLsbD 7 = y.getLsbD 7) (h6 : x.getLsbD 6 = y.getLsbD 6) (h5 : x.getLsbD 5 = y.getLsbD 5)
    (hmode : bits x 4 0 = bits y 4 0) : x = y := by
  apply BitVec.eq_of_getLsbD_eq
  intro k hk
  by_cases hlow : k < 5
  · have h := congrArg (·.getLsbD k) hmode
    simpa [bits, BitVec.getLsbD_extractLsb, Nat.le_of_lt_succ hlow] using h
  · by_cases hmid : 8 ≤ k ∧ k < 28
    · obtain ⟨j, rfl⟩ := Nat.exists_eq_add_of_le hmid.1
      have hj : j ≤ 19 := by omega
      have h := congrArg (·.getLsbD j) hres
      simpa [bits, BitVec.getLsbD_extractLsb, hj] using h
    · have hrest : k = 5 ∨ k = 6 ∨ k = 7 ∨ k = 28 ∨ k = 29 ∨ k = 30 ∨ k = 31 := by omega
      rcases hrest with rfl | rfl | rfl | rfl | rfl | rfl | rfl <;> assumption

/-- A word that decodes to a PSR is its image. -/
theorem psr_toWord_of_ofWord {w : Word} {p : Psr} (h : Psr.ofWord w = some p) : p.toWord = w := by
  obtain ⟨hm, hn, hz, hc, hv, hr, hi, hf, ht⟩ := psr_ofWord_some h
  obtain ⟨hn', hz', hc', hv', hr', hi', hf', ht', hm'⟩ := psr_toWord_fields p
  exact word_ext_of_psr_fields (hn'.trans hn) (hz'.trans hz) (hc'.trans hc) (hv'.trans hv) (hr'.trans hr)
    (hi'.trans hi) (hf'.trans hf) (ht'.trans ht) (hm'.trans (mode_bits_ofBits hm))

/-- A PSR is what its image decodes to. -/
theorem psr_ofWord_toWord (p : Psr) : Psr.ofWord p.toWord = some p := by
  obtain ⟨hn, hz, hc, hv, hr, hi, hf, ht, hm⟩ := psr_toWord_fields p
  unfold Psr.ofWord
  rw [hm, mode_ofBits_bits, hn, hz, hc, hv, hr, hi, hf, ht]

/-- The table of R28: which mode fields name a mode. -/
theorem mode_ofBits_isSome_iff (b : BitVec 5) :
    (∃ m, Mode.ofBits b = some m) ↔ b ∈ [0b10000#5, 0b10001, 0b10010, 0b10011, 0b10111, 0b11011, 0b11111] := by
  constructor
  · rintro ⟨m, h⟩
    rw [← mode_bits_ofBits h]
    cases m <;> decide
  · intro h
    simp only [List.mem_cons, List.not_mem_nil, or_false] at h
    rcases h with rfl | rfl | rfl | rfl | rfl | rfl | rfl <;> exact ⟨_, rfl⟩

/-- A word decodes to a PSR exactly when its mode field names a mode (R28). -/
theorem psr_ofWord_isSome_iff (w : Word) : (∃ p, Psr.ofWord w = some p) ↔ ∃ m, Mode.ofBits (bits w 4 0) = some m := by
  simp only [← Option.ne_none_iff_exists', ne_eq, psr_ofWord_eq_none_iff]

/-- Settles O58: decoding and imaging are inverse, and the fields are at their places. -/
theorem statusImages : Obligations.StatusImages := by
  refine ⟨psr_ofWord_toWord, fun w => ?_, psr_toWord_fields, by decide⟩
  calc (∃ p, Psr.ofWord w = some p ∧ p.toWord = w)
      ↔ ∃ p, Psr.ofWord w = some p := exists_congr fun _ => and_iff_left_of_imp psr_toWord_of_ofWord
    _ ↔ ∃ m, Mode.ofBits (bits w 4 0) = some m := psr_ofWord_isSome_iff w
    _ ↔ _ := mode_ofBits_isSome_iff _

/-! ### Steps that do not begin, and the banks -/

/-- Where `noStep` gives an outcome, it is the step's. -/
theorem step_of_noStep {s : State} {o : Host.Outcome State Fault Refusal} (h : s.noStep = some o) : step s = o := by
  simp [step, h]

/-- Settles O12: the tests of `noStep`, in their order. -/
theorem stepThatDoesNotBegin : Obligations.StepThatDoesNotBegin := by
  intro s
  refine ⟨fun e he => ?_, fun he hr => ?_, fun he hr hia => ?_, fun he hr hia ht => ?_⟩ <;> apply step_of_noStep
  · simp [State.noStep, he]
  · simp [State.noStep, he, hr]
  · simp [State.noStep, he, hr, hia]
  · simp [State.noStep, he, hr, hia, ht]

/-- Settles O57, row by row of R22's table. -/
theorem bankTable : Obligations.BankTable := by
  refine ⟨fun m => ?_, fun m => ?_, fun m => ⟨rfl, rfl, rfl⟩, rfl, rfl, rfl, rfl, rfl, rfl, rfl⟩
  · cases m <;> decide
  · cases m <;> decide

end Sys2Proof.Proofs
end

section
/-! SUPPORT. The memory family (20_memory.md): the byte order of the flat memory, what a bus call returns and changes,
when an access has no step, and the obligations that follow. -/

namespace Sys2Proof.Proofs

open Sys2Proof Sys2Proof.Machine Sys2Proof.Laws

/-! ### The flat memory read byte by byte (R53) -/

/-- A halfword is made of its two bytes, the lower address first. -/
theorem halfAt_byte (m : Memory) (a : Word) {k : Nat} (hk : k < 2) :
    (m.halfAt a).extractLsb' (8 * k) 8 = m.byteAt (a + BitVec.ofNat 32 k) := by
  unfold Memory.halfAt
  interval_cases k
  · rw [BitVec.add_zero]
    exact BitVec.extractLsb'_append_eq_right
  · exact BitVec.extractLsb'_append_eq_left

/-- A word is made of its four bytes, the lowest address first. -/
theorem wordAt_byte (m : Memory) (a : Word) {k : Nat} (hk : k < 4) :
    (m.wordAt a).extractLsb' (8 * k) 8 = m.byteAt (a + BitVec.ofNat 32 k) := by
  unfold Memory.wordAt
  interval_cases k
  · rw [BitVec.add_zero]
    exact BitVec.extractLsb'_append_eq_right
  · exact (BitVec.extractLsb'_append_eq_of_le (by decide)).trans BitVec.extractLsb'_append_eq_right
  · exact (BitVec.extractLsb'_append_eq_of_le (by decide)).trans
      ((BitVec.extractLsb'_append_eq_of_le (by decide)).trans BitVec.extractLsb'_append_eq_right)
  · exact (BitVec.extractLsb'_append_eq_of_le (by decide)).trans
      ((BitVec.extractLsb'_append_eq_of_le (by decide)).trans BitVec.extractLsb'_append_eq_left)

/-- A byte read outside every window: bytes are always aligned. -/
theorem busReadValue_byte {s : State} {a : Word} (h : s.launch.device a = false) :
    s.busReadValue .byte a = (s.mem.byteAt a).setWidth 32 :=
  if_pos ((plain_iff _ _ _).mpr ⟨rfl, h⟩)

theorem busReadValue_half {s : State} {a : Word} (h : s.launch.plain .half a = true) :
    s.busReadValue .half a = (s.mem.halfAt a).setWidth 32 := if_pos h

/-- A byte read inside what a write to the flat memory wrote returns that byte of the value. -/
theorem busRead_byte_of_busWrite {s : State} {w : Width} {a : Word} (hp : s.launch.plain w a = true) (v : Word) {k : Nat}
    (hk : k < w.bytes) (hd : s.launch.device (a + BitVec.ofNat 32 k) = false) :
    (s.busWrite w a v).busReadValue .byte (a + BitVec.ofNat 32 k) = (v.extractLsb' (8 * k) 8).setWidth 32 := by
  rw [busReadValue_byte (s := s.busWrite w a v) hd, busWrite_mem, (busWriteMem_bytes s w a v hp).1 k hk]

/-- A byte read outside what a write to the flat memory wrote returns what it did before. -/
theorem busRead_byte_busWrite_other {s : State} {w : Width} {a b : Word} (hp : s.launch.plain w a = true) (v : Word)
    (hb : w.bytes ≤ (b - a).toNat) (hd : s.launch.device b = false) :
    (s.busWrite w a v).busReadValue .byte b = s.busReadValue .byte b := by
  rw [busReadValue_byte (s := s.busWrite w a v) hd, busReadValue_byte hd, busWrite_mem,
    (busWriteMem_bytes s w a v hp).2 b hb]

theorem busRead_word_busWrite {s : State} {a : Word} (hp : s.launch.plain .word a = true) (v : Word) :
    (s.busWrite .word a v).busReadValue .word a = v := by
  rw [busReadValue_word (s := s.busWrite .word a v) hp, busWrite_mem, State.busWriteMem, if_pos hp]
  exact wordAt_setWord s.mem a v

theorem busRead_half_busWrite {s : State} {a : Word} (hp : s.launch.plain .half a = true) (v : Word) :
    (s.busWrite .half a v).busReadValue .half a = (v.setWidth 16).setWidth 32 := by
  rw [busReadValue_half (s := s.busWrite .half a v) hp, busWrite_mem, State.busWriteMem, if_pos hp]
  simp only [halfAt_setHalf]
  rfl

/-- An aligned access all of whose bytes are outside every window goes to the flat memory. -/
theorem plain_of_bytes {l : Launch} {w : Width} {a : Word} (ha : aligned w a = true)
    (hd : ∀ k < w.bytes, l.device (a + BitVec.ofNat 32 k) = false) : l.plain w a = true := by
  have h0 : 0 < w.bytes := by cases w <;> decide
  exact (plain_iff _ _ _).mpr ⟨ha, by simpa using hd 0 h0⟩

/-- Settles O42, width by width: what is read whole, and what is read byte by byte. -/
theorem littleEndian : Obligations.LittleEndian := by
  intro s a v b
  refine ⟨fun ha hd => ?word, fun ha hd => ?half, fun hd => ?byte⟩
  case word =>
    have hp : s.launch.plain .word a = true := plain_of_bytes ha hd
    refine ⟨busRead_word_busWrite hp v, fun k hk => busRead_byte_of_busWrite hp v hk (hd k hk),
      busRead_byte_busWrite_other hp v, fun k hk => ?_⟩
    rw [busReadValue_word hp, wordAt_byte _ _ hk]
  case half =>
    have hp : s.launch.plain .half a = true := plain_of_bytes ha hd
    refine ⟨busRead_half_busWrite hp v, fun k hk => busRead_byte_of_busWrite hp v hk (hd k hk),
      busRead_byte_busWrite_other hp v, fun k hk => ?_⟩
    rw [busReadValue_half hp, BitVec.extractLsb'_setWidth_of_le (by omega), halfAt_byte _ _ hk]
  case byte =>
    have hp : s.launch.plain .byte a = true := (plain_iff _ _ _).mpr ⟨rfl, hd⟩
    refine ⟨?_, fun hne => busRead_byte_busWrite_other hp v ?_⟩
    · rw [BitVec.setWidth_eq_extractLsb' (w := 8) (by decide)]
      simpa using busRead_byte_of_busWrite hp v (k := 0) (by decide) (by simpa using hd)
    · show 1 ≤ (b - a).toNat
      bv_omega

/-! ### Accesses that have no step (R54, R67) -/

/-- An instruction has no step exactly when its condition passes and its handler is stuck. -/
theorem exec_busStuck_iff (i : Instr) (s : State) :
    exec i s = .fault .busStuck ↔
      conditionPassed i.cond s.cpsr = true ∧ (describe i).handler (prefetched s) = .stuck := by
  refine ⟨fun h => ?_, fun ⟨hc, hs⟩ => exec_stuck hc hs⟩
  obtain ⟨hc, ⟨k, -, hf⟩ | ⟨hs, -⟩⟩ := exec_fault h
  · cases hf
  · exact ⟨hc, hs⟩

/-- On the reference bus every misaligned access is stuck (R67): it has no window. -/
theorem flatBus_stuckAt (w : Width) (a : Word) : Launch.flatBus.stuckAt w a = true ↔ aligned w a = false := by
  simp [Launch.stuckAt, Launch.device, Launch.flatBus, Launch.default]

/-- Settles O43: a handler is stuck by its accesses alone, and the prefetch does not matter to them. -/
theorem referenceBus : Obligations.ReferenceBus := by
  refine ⟨fun i s => ?_, flatBus_stuckAt, fun l w a h => ?_, fun s w a ha hd => ?_⟩
  · rw [exec_busStuck_iff, handler_stuck, errorOf_prefetched, dataAccesses_prefetched, afterRead_launch]
  · simp [Launch.stuckAt, h]
  · have hp : s.launch.plain w a = true := (plain_iff _ _ _).mpr ⟨ha, hd⟩
    exact ⟨busReadMem_plain hp, busReadDev_plain hp⟩

/-! ### What a bus call passes, returns and changes (R50, R56, R58) -/

/-- A read that does not go to the flat memory returns and leaves what the bus answers (log entries 3 and 4). -/
theorem busRead_free {s : State} {w : Width} {a : Word} (h : s.launch.plain w a = false) :
    s.busReadValue w a = busValue w (Config.busRead s.steps w a s.mem s.dev).1 ∧
      s.busReadMem w a = s.mem.setBytes (Config.busRead s.steps w a s.mem s.dev).2.changes ∧
      s.busReadDev w a = (Config.busRead s.steps w a s.mem s.dev).2.dev := by
  simp [State.busReadValue, State.busReadMem, State.busReadDev, h]

/-- A write that does not go to the flat memory leaves what the bus answers to the low bits of the value. -/
theorem busWrite_free {s : State} {w : Width} {a : Word} (h : s.launch.plain w a = false) (v : Word) :
    s.busWriteMem w a v = s.mem.setBytes (Config.busWrite s.steps w a (busValue w v) s.mem s.dev).changes ∧
      s.busWriteDev w a v = (Config.busWrite s.steps w a (busValue w v) s.mem s.dev).dev := by
  simp [State.busWriteMem, State.busWriteDev, h]

/-- An instruction that raises an error has made the prefetch read only (R319). -/
theorem exec_raised_bus {i : Instr} {s faulted : State} {e : ErrorRecord} (h : exec i s = .fault (.raised e faulted)) :
    faulted.BusIs (s.busAfter [.read .word (s.ia + 8)]) := by
  obtain ⟨-, ⟨k, -, hf⟩ | ⟨-, hf⟩⟩ := exec_fault h <;> cases hf
  exact ⟨rfl, rfl, rfl⟩

/-- Settles O45: the calls of an instruction, then what one write and one read do. -/
theorem busAccessesAreExactlyThese : Obligations.BusAccessesAreExactlyThese := by
  refine ⟨fun i s => ⟨fun t h => busIs_of_sameBus (exec_bus h), fun e f h => exec_raised_bus h⟩,
    fun b w a v passed hv => ?_, fun b w a => ⟨rfl, busRead_free⟩⟩
  have hlow : passed = busValue w v := by
    rw [hv]
    cases w <;> simp [busValue, BitVec.setWidth_eq_extractLsb']
  subst hlow
  exact ⟨rfl, fun h => busWrite_free h v⟩

/-! ### The prefetch and the stores (R63, R347) -/

/-- An instruction whose condition fails, or that does not flush, advances (R102, R112). -/
theorem exec_advancesTo {i : Instr} {s t : State} (h : exec i s = .next t)
    (hn : ¬(conditionPassed i.cond s.cpsr = true ∧ (describe i).flushes = true)) : s.AdvancesTo t := by
  rcases exec_next h with ⟨-, rfl⟩ | ⟨-, s1, h1, rfl⟩ | ⟨hc, s1, h1, -⟩
  · exact advancesTo_applyAdvance (s1 := prefetched s) rfl rfl rfl
  · have hk := handler_keeps _ _ _ (.inl h1)
    exact advancesTo_applyAdvance hk.ia hk.qnext hk.refused
  · exact absurd ⟨hc, (handler_flushes _ _).2 _ h1⟩ hn

/-- An instruction that flushes and ends in ARM state refills from the bus its own accesses leave (R114). -/
theorem exec_refilledAt {i : Instr} {s t : State} (h : exec i s = .next t)
    (hc : conditionPassed i.cond s.cpsr = true) (hf : (describe i).flushes = true) (ht : t.cpsr.t = false) :
    ∃ target, (s.beforeRefill i).RefilledAt t target := by
  rcases exec_next h with ⟨hc', -⟩ | ⟨-, s1, h1, -⟩ | ⟨-, s1, h1, rfl⟩
  · exact absurd (hc.symm.trans hc') (by decide)
  · exact absurd (hf.symm.trans ((handler_flushes _ _).1 _ h1)) (by decide)
  · exact ⟨s1.pcf, flush_refilledAt hc h1 (by rwa [applyFlush_cpsr] at ht)⟩

/-- No interrupt is ever requested (R312). -/
def Quiet (l : Launch) : Prop := ∀ n, l.interruptSource n = { irq := false, fiq := false }

/-- Without interrupts the end of a step counts it, and that is all (R110). -/
theorem endStep_quiet {s : State} (hq : Quiet s.launch) : s.endStep = { s with steps := s.steps + 1 } := by
  rcases endStep_cases s with ⟨-, e⟩ | ⟨-, ⟨hfiq, -⟩ | ⟨-, hirq, -⟩ | ⟨-, -, e⟩⟩
  · exact e
  · simp [hq (s.steps + 1)] at hfiq
  · simp [hq (s.steps + 1)] at hirq
  · exact e

/-- Without interrupts a step is its instruction, counted. -/
theorem step_quiet {s t : State} (hq : Quiet s.launch) (h : step s = .next t) :
    ∃ s1, exec (decodeWord s.qcur) s = .next s1 ∧ t = { s1 with steps := s1.steps + 1 } := by
  obtain ⟨-, -, -, -, -, s1, hx, rfl⟩ := step_next h
  refine ⟨s1, hx, endStep_quiet ?_⟩
  rwa [(exec_run hx).1]

/-- Without interrupts a step whose instruction does not flush advances, under the same launch. -/
theorem step_advancesTo {s t : State} (hq : Quiet s.launch) (h : step s = .next t)
    (hn : ¬(conditionPassed (decodeWord s.qcur).cond s.cpsr = true ∧ (describe (decodeWord s.qcur)).flushes = true)) :
    s.AdvancesTo t ∧ t.launch = s.launch := by
  obtain ⟨s1, hx, rfl⟩ := step_quiet hq h
  exact ⟨exec_advancesTo (t := s1) hx hn, (exec_run hx).1⟩

/-- Settles O52: the two advances one after the other, and the refill of a flush from the flat memory. -/
theorem storesBehindThePrefetch : Obligations.StoresBehindThePrefetch := by
  constructor
  · intro s t u hq hst htu hns hnt
    obtain ⟨⟨-, hia, hqcur, hqnext, -⟩, hl⟩ := step_advancesTo hq hst hns
    obtain ⟨⟨-, hia', hqcur', -, -⟩, -⟩ := step_advancesTo (s := t) (hl ▸ hq) htu hnt
    refine ⟨hia, hqcur, ?_, hqcur'.trans hqnext⟩
    rw [hia', hia]
    bv_omega
  · intro s t hq hst hc hf ht h0 h4
    obtain ⟨s1, hx, rfl⟩ := step_quiet hq hst
    obtain ⟨_, -, -, -, -, -, -, hwords⟩ := exec_refilledAt hx hc hf ht
    have hl := (busOnly_busAfter s (s.ownAccesses (decodeWord s.qcur))).launch
    exact hwords (hl ▸ h0) (hl ▸ h4)

end Sys2Proof.Proofs
end

section
/-! SUPPORT. Words and their fields: a test of a word read bit by bit, a field read out of a concatenation, and fields
joined back. -/

namespace Sys2Proof.Proofs

open Sys2Proof Sys2Proof.Machine

/-! ### Tests as statements about bits -/

/-- The lowest `k` bits of `x` under the mask `m` are those of `p`. -/
def MaskedBits {n : Nat} (x m p : BitVec n) : Nat → Prop
  | 0 => True
  | k + 1 => (if m.getLsbD k = true then x.getLsbD k = p.getLsbD k else p.getLsbD k = false) ∧ MaskedBits x m p k

theorem maskedBits_iff {n : Nat} (x m p : BitVec n) (k : Nat) :
    MaskedBits x m p k ↔ ∀ j < k, (x &&& m).getLsbD j = p.getLsbD j := by
  induction k with
  | zero => simp [MaskedBits]
  | succ k ih =>
    rw [MaskedBits, ih, Nat.forall_lt_succ_right, and_comm, BitVec.getLsbD_and]
    cases m.getLsbD k with
    | true => simp
    | false => simp

/-- A masked comparison (R72, R95), bit by bit from bit 31 down. -/
theorem and_eq_iff_bits (w m p : Word) : w &&& m = p ↔ MaskedBits w m p 32 := by
  rw [BitVec.eq_of_getLsbD_eq_iff, maskedBits_iff]

/-- The lowest `k` bits of the field of `x` at `lo` are those of `v`. -/
def FieldBits {n m : Nat} (x : BitVec m) (lo : Nat) (v : BitVec n) : Nat → Prop
  | 0 => True
  | k + 1 => x.getLsbD (lo + k) = v.getLsbD k ∧ FieldBits x lo v k

theorem fieldBits_iff {n m : Nat} (x : BitVec m) (lo : Nat) (v : BitVec n) {k : Nat} (hk : k ≤ n) :
    FieldBits x lo v k ↔ ∀ j < k, (x.extractLsb' lo n).getLsbD j = v.getLsbD j := by
  induction k with
  | zero => simp [FieldBits]
  | succ k ih =>
    have hlt : k < n := hk
    simp only [FieldBits, ih (Nat.le_of_lt hlt), Nat.forall_lt_succ_right, BitVec.getLsbD_extractLsb', hlt, decide_true,
      Bool.true_and, and_comm]

/-- A field's value, bit by bit from its highest bit down. -/
theorem extract_eq_iff_bits {n m : Nat} (x : BitVec m) (lo : Nat) (v : BitVec n) :
    x.extractLsb' lo n = v ↔ FieldBits x lo v n := by
  rw [BitVec.eq_of_getLsbD_eq_iff, fieldBits_iff _ _ _ le_rfl]

/-- A field of a field. -/
theorem extract_extract {m : Nat} (x : BitVec m) {a n b k : Nat} (h : b + k ≤ n) :
    (x.extractLsb' a n).extractLsb' b k = x.extractLsb' (a + b) k := by
  apply BitVec.eq_of_getLsbD_eq
  intro i hi
  have hlt : b + i < n := by omega
  simp [hi, hlt, Nat.add_assoc]

/-! ### Fields of a concatenation -/

/-- A field of a concatenation that lies in its high part. -/
theorem extract_append_left {a b : Nat} (x : BitVec a) (y : BitVec b) (lo n : Nat) (h : b ≤ lo) :
    (x ++ y).extractLsb' lo n = x.extractLsb' (lo - b) n := BitVec.extractLsb'_append_eq_of_le h

/-- A field of a concatenation that lies in its low part. -/
theorem extract_append_right {a b : Nat} (x : BitVec a) (y : BitVec b) (lo n : Nat) (h : n ≤ b - lo) :
    (x ++ y).extractLsb' lo n = y.extractLsb' lo n := by
  by_cases hlo : lo + n ≤ b
  · exact BitVec.extractLsb'_append_eq_of_add_le hlo
  · obtain rfl : n = 0 := by omega
    exact BitVec.eq_of_zero_length rfl

theorem bit_append_left {a b : Nat} (x : BitVec a) (y : BitVec b) (i : Nat) (h : b ≤ i) :
    (x ++ y).getLsbD i = x.getLsbD (i - b) := by
  rw [BitVec.getLsbD_append, if_neg (Nat.not_lt.mpr h)]

theorem bit_append_right {a b : Nat} (x : BitVec a) (y : BitVec b) (i : Nat) (h : i + 1 ≤ b) :
    (x ++ y).getLsbD i = y.getLsbD i := by
  rw [BitVec.getLsbD_append, if_pos (Nat.lt_of_succ_le h)]

theorem bit_flag (b : Bool) : (flag b).getLsbD 0 = b := by cases b <;> rfl

theorem flag_bit (w : Word) (k : Nat) : flag (bit w k) = w.extractLsb' k 1 := by
  apply BitVec.eq_of_getLsbD_eq
  intro i hi
  obtain rfl : i = 0 := by omega
  simp

theorem one_eq_field {w : Word} {k : Nat} (h : bit w k = true) : 0b1#1 = w.extractLsb' k 1 := by
  rw [← flag_bit, h]
  rfl

theorem zero_eq_field {w : Word} {k : Nat} (h : bit w k = false) : 0b0#1 = w.extractLsb' k 1 := by
  rw [← flag_bit, h]
  rfl

/-! ### Named values of fields -/

theorem cond_ofBits_bits (c : Cond) : Cond.ofBits c.bits = c := by cases c <;> rfl

theorem cond_bits_ofBits (b : BitVec 4) : (Cond.ofBits b).bits = b := by decide +revert

theorem shiftType_ofBits_bits (t : ShiftType) : ShiftType.ofBits t.bits = t := by cases t <;> rfl

theorem shiftType_bits_ofBits (b : BitVec 2) : (ShiftType.ofBits b).bits = b := by decide +revert

theorem aluOp_ofBits_bits (op : AluOp) : AluOp.ofBits op.bits = op := by cases op <;> rfl

theorem aluOp_bits_ofBits (b : BitVec 4) : (AluOp.ofBits b).bits = b := by decide +revert

/-! ### The two sets of rules for words and fields

Each is one theorem, so that a proof names the set and not its members. -/

/-- How a field, a flag or a named value is read out of a concatenation. -/
theorem reading :
    (∀ (w : Word) (hi lo : Nat), w.extractLsb hi lo = w.extractLsb' lo (hi - lo + 1)) ∧
      (∀ w : Word, condOf w = Cond.ofBits (w.extractLsb' 28 4)) ∧
      (∀ {a b : Nat} (x : BitVec a) (y : BitVec b) (lo n : Nat), b ≤ lo →
        (x ++ y).extractLsb' lo n = x.extractLsb' (lo - b) n) ∧
      (∀ {a b : Nat} (x : BitVec a) (y : BitVec b) (lo n : Nat), n ≤ b - lo →
        (x ++ y).extractLsb' lo n = y.extractLsb' lo n) ∧
      (∀ {a : Nat} (x : BitVec a), x.extractLsb' 0 a = x) ∧
      (∀ {a b : Nat} (x : BitVec a) (y : BitVec b) (i : Nat), b ≤ i → (x ++ y).getLsbD i = x.getLsbD (i - b)) ∧
      (∀ {a b : Nat} (x : BitVec a) (y : BitVec b) (i : Nat), i + 1 ≤ b → (x ++ y).getLsbD i = y.getLsbD i) ∧
      (∀ b : Bool, (flag b).getLsbD 0 = b) ∧ (∀ c : Cond, Cond.ofBits c.bits = c) ∧
      (∀ t : ShiftType, ShiftType.ofBits t.bits = t) ∧ ∀ op : AluOp, AluOp.ofBits op.bits = op :=
  ⟨fun _ _ _ => rfl, fun _ => rfl, extract_append_left, extract_append_right, fun _ => BitVec.extractLsb'_eq_self,
    bit_append_left, bit_append_right, bit_flag, cond_ofBits_bits, shiftType_ofBits_bits, aluOp_ofBits_bits⟩

/-- How fields and flags of one word, read from it, are joined back. -/
theorem joining :
    (∀ (w : Word) (hi lo : Nat), w.extractLsb hi lo = w.extractLsb' lo (hi - lo + 1)) ∧
      (∀ w : Word, (condOf w).bits = w.extractLsb' 28 4) ∧
      (∀ b : BitVec 2, (ShiftType.ofBits b).bits = b) ∧ (∀ b : BitVec 4, (AluOp.ofBits b).bits = b) ∧
      (∀ (w : Word) (k : Nat), flag (bit w k) = w.extractLsb' k 1) ∧
      ∀ (w : Word) (hi lo m n : Nat), hi = lo + n →
        w.extractLsb' hi m ++ w.extractLsb' lo n = w.extractLsb' lo (m + n) :=
  ⟨fun _ _ _ => rfl, fun _ => cond_bits_ofBits _, shiftType_bits_ofBits, aluOp_bits_ofBits, flag_bit,
    fun _ _ _ _ _ => BitVec.extractLsb'_append_extractLsb'_eq_extractLsb'⟩

end Sys2Proof.Proofs
end

section
/-! SUPPORT. The decoder's line of a word (30_encoding.md R72), in both directions: which fields of the word it
depends on. -/

namespace Sys2Proof.Proofs

open Sys2Proof Sys2Proof.Machine

/-- Line 9f's check, as fields of the word: bits 27:25 are zero, so that these are the words of lines 9a, 9b and 9c. -/
theorem undefMul_residue_iff (w : Word) :
    (undefMulFields w).residue = true ↔
      (bits w 24 22 ≠ 0b000#3 ∧ bits w 24 23 ≠ 0b01#2) ∧
        ¬((bits w 24 23 = 0b10#2 ∧ bits w 21 20 = 0b00#2) ∧ bits w 11 8 = 0b0000#4) := by
  simp only [undefMulFields, UndefMulFields.residue, BitVec.extractLsb, extract_extract, Nat.reduceSub, Nat.reduceAdd,
    Nat.reduceLeDiff, Bool.and_eq_true, Bool.not_eq_true', Bool.eq_false_iff, beq_iff_eq, ne_eq]

/-- Line 12's check: the word is not of line 9. -/
theorem msrFlags_residue_iff (w : Word) :
    (msrFlagsFields w).residue = true ↔ ¬((bit w 25 = false ∧ bit w 7 = true) ∧ bit w 4 = true) := by
  simp only [msrFlagsFields, MsrFlagsFields.residue, bit, BitVec.getLsbD_extractLsb, Nat.reduceSub, Nat.reduceAdd,
    Nat.reduceLT, decide_true, Bool.true_and, Nat.zero_add, Bool.and_eq_true, Bool.not_eq_true', Bool.eq_false_iff,
    ne_eq]

/-- Line 13's check: with bits 27:26, 24:23 and 20 as the line has them, these are the words of lines 1, 9, 10, 11 and
12. -/
theorem undefPsr_residue_iff (w : Word) :
    (undefPsrFields w).residue = true ↔
      (((¬((bit w 25 = false ∧ bits w 22 21 = 0b01#2) ∧ bits w 19 4 = 0xFFF1#16) ∧
        ¬((bit w 25 = false ∧ bit w 7 = true) ∧ bit w 4 = true)) ∧
        ¬(((bit w 25 = false ∧ bit w 21 = false) ∧ bits w 19 16 = 0b1111#4) ∧ bits w 11 0 = 0x000#12)) ∧
        ¬((bit w 25 = false ∧ bit w 21 = true) ∧ bits w 19 4 = 0x9F00#16)) ∧
        ¬(bit w 21 = true ∧ bits w 19 12 = 0x8F#8) := by
  simp only [undefPsrFields, UndefPsrFields.residue, bit, BitVec.getLsbD_extractLsb', BitVec.extractLsb,
    extract_extract, Nat.reduceSub, Nat.reduceAdd, Nat.reduceLT, Nat.reduceLeDiff, decide_true, Bool.true_and,
    Nat.zero_add, Nat.add_zero, Bool.and_eq_true, Bool.not_eq_true', Bool.eq_false_iff, ne_eq, beq_iff_eq]

/-- The words line `l` of R72 selects: its own test and, as far as an earlier line could take the word, that
none does. -/
def Selects (w : Word) : DecodeLine → Prop
  | .l1 => bits w 27 4 = 0x12FFF1#24
  | .l2 => bits w 27 25 = 0b101#3
  | .l3 => bits w 27 24 = 0b1111#4
  | .l4 => bits w 27 24 = 0b1110#4
  | .l5 => bits w 27 25 = 0b110#3
  | .l6 => bits w 27 25 = 0b100#3
  | .l7 => bits w 27 25 = 0b011#3 ∧ bit w 4 = true
  | .l8 => bit w 27 = false ∧ bit w 26 = true ∧ ¬(bit w 25 = true ∧ bit w 4 = true)
  | .l9a => bits w 27 22 = 0b000000#6 ∧ bits w 7 4 = 0b1001#4
  | .l9b => bits w 27 23 = 0b00001#5 ∧ bits w 7 4 = 0b1001#4
  | .l9c => bits w 27 23 = 0b00010#5 ∧ bits w 21 20 = 0b00#2 ∧ bits w 11 4 = 0b00001001#8
  | .l9d => bits w 27 25 = 0b000#3 ∧ bit w 22 = true ∧ bit w 7 = true ∧ bits w 6 5 ≠ 0b00#2 ∧ bit w 4 = true
  | .l9e => bits w 27 25 = 0b000#3 ∧ bit w 22 = false ∧ bit w 7 = true ∧ bits w 6 5 ≠ 0b00#2 ∧ bit w 4 = true
  | .l9f => bits w 27 25 = 0b000#3 ∧ bits w 7 4 = 0b1001#4 ∧ (undefMulFields w).residue = true
  | .l10 => bits w 27 23 = 0b00010#5 ∧ bits w 21 16 = 0b001111#6 ∧ bits w 11 0 = 0#12
  | .l11 => bits w 27 23 = 0b00010#5 ∧ bits w 21 4 = 0b101001111100000000#18
  | .l12 => bits w 27 26 = 0b00#2 ∧ bits w 24 23 = 0b10#2 ∧ bits w 21 12 = 0b1010001111#10 ∧
      (msrFlagsFields w).residue = true
  | .l13 => bits w 27 26 = 0b00#2 ∧ bits w 24 23 = 0b10#2 ∧ bit w 20 = false ∧ (undefPsrFields w).residue = true
  | .l14 => bit w 27 = false ∧ bit w 26 = false ∧ ¬(bit w 25 = false ∧ bit w 7 = true ∧ bit w 4 = true) ∧
      ¬(bit w 24 = true ∧ bit w 23 = false ∧ bit w 20 = false)

/-- A field's value in `Selects`, or a mask's in `decodeLine`, as bits of the word. -/
theorem field_eq_iff_bits (w : Word) (hi lo : Nat) (v : BitVec (hi - lo + 1)) :
    bits w hi lo = v ↔ FieldBits w lo v (hi - lo + 1) := extract_eq_iff_bits w lo v

/-- The words a line selects have that line: bit by bit, each earlier test of R72 fails and its own holds. -/
theorem decodeLine_of_selects {w : Word} {l : DecodeLine} (h : Selects w l) : decodeLine w = l := by
  revert h
  simp only [decodeLine, and_eq_iff_bits, MaskedBits, field_eq_iff_bits, FieldBits, BitVec.reduceGetLsb,
    Nat.reduceSub, Nat.reduceAdd, if_true, if_false, Bool.false_eq_true, true_and, and_true, ne_eq]
  cases l <;>
    simp only [Selects, undefMul_residue_iff, msrFlags_residue_iff, undefPsr_residue_iff, field_eq_iff_bits, FieldBits,
      BitVec.reduceGetLsb, Nat.reduceSub, Nat.reduceAdd, and_true, ne_eq] <;>
    grind

/-- Some line selects every word. -/
theorem exists_selects (w : Word) : ∃ l, Selects w l := by
  by_contra h
  rw [not_exists] at h
  have top : bit w 27 = false ∧ bit w 26 = false := by
    have h2 := h .l2
    have h3 := h .l3
    have h4 := h .l4
    have h5 := h .l5
    have h6 := h .l6
    have h7 := h .l7
    have h8 := h .l8
    simp only [Selects, field_eq_iff_bits, FieldBits, BitVec.reduceGetLsb, Nat.reduceSub, Nat.reduceAdd, and_true]
      at h2 h3 h4 h5 h6 h7 h8
    grind
  by_cases space : bit w 25 = false ∧ bit w 7 = true ∧ bit w 4 = true
  · have ha := h .l9a
    have hb := h .l9b
    have hc := h .l9c
    have hd := h .l9d
    have he := h .l9e
    have hf := h .l9f
    simp only [Selects, undefMul_residue_iff, field_eq_iff_bits, FieldBits, BitVec.reduceGetLsb, Nat.reduceSub,
      Nat.reduceAdd, and_true, ne_eq] at ha hb hc hd he hf
    clear h
    grind
  · have h1 := h .l1
    have h10 := h .l10
    have h11 := h .l11
    have h12 := h .l12
    have h13 := h .l13
    have psr : bit w 24 = true ∧ bit w 23 = false ∧ bit w 20 = false :=
      Classical.not_not.mp fun hs => h .l14 ⟨top.1, top.2, space, hs⟩
    simp only [Selects, msrFlags_residue_iff, undefPsr_residue_iff, field_eq_iff_bits, FieldBits, BitVec.reduceGetLsb,
      Nat.reduceSub, Nat.reduceAdd, and_true] at h1 h10 h11 h12 h13
    clear h
    grind

/-- R72: the line of a word is the one that selects it. -/
theorem selects_decodeLine (w : Word) : Selects w (decodeLine w) := by
  obtain ⟨l, h⟩ := exists_selects w
  rwa [decodeLine_of_selects h]

theorem decodeLine_eq_iff {w : Word} {l : DecodeLine} : decodeLine w = l ↔ Selects w l :=
  ⟨fun h => h ▸ selects_decodeLine w, decodeLine_of_selects⟩

end Sys2Proof.Proofs
end

section
/-! SUPPORT. The decoder's line of an encoded instruction, and its fields and flags read back (30_encoding.md R72,
R74 to R84): one lemma per format. -/

namespace Sys2Proof.Proofs

open Sys2Proof Sys2Proof.Machine

/-- R72: a comparison has S = 1, so that line 13 does not take it. -/
theorem compare_sets_flags {op : AluOp} {s : Bool} (hs : aluWrites op = false → s = true) :
    ¬(op.bits.getLsbD 3 = true ∧ op.bits.getLsbD 2 = false ∧ s = false) := by
  rintro ⟨h3, h2, rfl⟩
  cases op <;> simp_all [AluOp.bits, aluWrites]

theorem encodeBranch_reads (l : Bool) (f : BranchFields) :
    decodeLine (encodeBranch l f) = .l2 ∧ branchFields (encodeBranch l f) = f ∧ bit (encodeBranch l f) 24 = l := by
  refine ⟨decodeLine_of_selects ?_, ?_, ?_⟩ <;>
    simp only [encodeBranch, Selects, branchFields, reading, Nat.reduceLeDiff, Nat.reduceSub]

theorem encodeCopReg_reads (l : Bool) (f : CopRegFields) :
    decodeLine (encodeCopReg l f) = .l4 ∧ copRegFields (encodeCopReg l f) = f ∧ bit (encodeCopReg l f) 4 = true ∧
      bit (encodeCopReg l f) 20 = l := by
  refine ⟨decodeLine_of_selects ?_, ?_, ?_, ?_⟩ <;>
    simp only [encodeCopReg, Selects, copRegFields, reading, Nat.reduceLeDiff, Nat.reduceSub, BitVec.reduceGetLsb]

theorem encodeCopData_reads (l : Bool) (f : CopDataFields) :
    decodeLine (encodeCopData l f) = .l5 ∧ copDataFields (encodeCopData l f) = f ∧ bit (encodeCopData l f) 20 = l := by
  refine ⟨decodeLine_of_selects ?_, ?_, ?_⟩ <;>
    simp only [encodeCopData, Selects, copDataFields, reading, Nat.reduceLeDiff, Nat.reduceSub]

theorem encodeBlock_reads (p u s l : Bool) (f : BlockFields) :
    decodeLine (encodeBlock p u s l f) = .l6 ∧ blockFields (encodeBlock p u s l f) = f ∧
      bit (encodeBlock p u s l f) 24 = p ∧ bit (encodeBlock p u s l f) 23 = u ∧ bit (encodeBlock p u s l f) 22 = s ∧
      bit (encodeBlock p u s l f) 20 = l := by
  refine ⟨decodeLine_of_selects ?_, ?_, ?_, ?_, ?_, ?_⟩ <;>
    simp only [encodeBlock, Selects, blockFields, reading, Nat.reduceLeDiff, Nat.reduceSub]

theorem encodeImmPre_reads (b l : Bool) (f : ImmPreFields) :
    decodeLine (encodeImmPre b l f) = .l8 ∧ immPreFields (encodeImmPre b l f) = f ∧
      bit (encodeImmPre b l f) 25 = false ∧ bit (encodeImmPre b l f) 24 = true ∧ bit (encodeImmPre b l f) 22 = b ∧
      bit (encodeImmPre b l f) 20 = l := by
  refine ⟨decodeLine_of_selects ?_, ?_, ?_, ?_, ?_, ?_⟩ <;>
    simp only [encodeImmPre, Selects, immPreFields, reading, Nat.reduceLeDiff, Nat.reduceSub, BitVec.reduceGetLsb,
      and_self, Bool.false_eq_true, false_and, not_false_eq_true]

theorem encodeImmPost_reads (b w l : Bool) (f : ImmPostFields) :
    decodeLine (encodeImmPost b w l f) = .l8 ∧ immPostFields (encodeImmPost b w l f) = f ∧
      bit (encodeImmPost b w l f) 25 = false ∧ bit (encodeImmPost b w l f) 24 = false ∧
      bit (encodeImmPost b w l f) 22 = b ∧ bit (encodeImmPost b w l f) 21 = w ∧ bit (encodeImmPost b w l f) 20 = l := by
  refine ⟨decodeLine_of_selects ?_, ?_, ?_, ?_, ?_, ?_, ?_⟩ <;>
    simp only [encodeImmPost, Selects, immPostFields, reading, Nat.reduceLeDiff, Nat.reduceSub, BitVec.reduceGetLsb,
      and_self, Bool.false_eq_true, false_and, not_false_eq_true]

theorem encodeRegPre_reads (b l : Bool) (f : RegPreFields) :
    decodeLine (encodeRegPre b l f) = .l8 ∧ regPreFields (encodeRegPre b l f) = f ∧
      bit (encodeRegPre b l f) 25 = true ∧ bit (encodeRegPre b l f) 24 = true ∧ bit (encodeRegPre b l f) 22 = b ∧
      bit (encodeRegPre b l f) 20 = l := by
  refine ⟨decodeLine_of_selects ?_, ?_, ?_, ?_, ?_, ?_⟩ <;>
    simp only [encodeRegPre, Selects, regPreFields, reading, Nat.reduceLeDiff, Nat.reduceSub, BitVec.reduceGetLsb,
      and_self, Bool.false_eq_true, and_false, not_false_eq_true]

theorem encodeRegPost_reads (b w l : Bool) (f : RegPostFields) :
    decodeLine (encodeRegPost b w l f) = .l8 ∧ regPostFields (encodeRegPost b w l f) = f ∧
      bit (encodeRegPost b w l f) 25 = true ∧ bit (encodeRegPost b w l f) 24 = false ∧
      bit (encodeRegPost b w l f) 22 = b ∧ bit (encodeRegPost b w l f) 21 = w ∧ bit (encodeRegPost b w l f) 20 = l := by
  refine ⟨decodeLine_of_selects ?_, ?_, ?_, ?_, ?_, ?_, ?_⟩ <;>
    simp only [encodeRegPost, Selects, regPostFields, reading, Nat.reduceLeDiff, Nat.reduceSub, BitVec.reduceGetLsb,
      and_self, Bool.false_eq_true, and_false, not_false_eq_true]

theorem encodeMul_reads (a : Bool) (f : MulFields) :
    decodeLine (encodeMul a f) = .l9a ∧ mulFields (encodeMul a f) = f ∧ bit (encodeMul a f) 21 = a := by
  refine ⟨decodeLine_of_selects ?_, ?_, ?_⟩ <;>
    simp only [encodeMul, Selects, mulFields, reading, Nat.reduceLeDiff, Nat.reduceSub, and_self]

theorem encodeMull_reads (u a : Bool) (f : MullFields) :
    decodeLine (encodeMull u a f) = .l9b ∧ mullFields (encodeMull u a f) = f ∧ bit (encodeMull u a f) 22 = u ∧
      bit (encodeMull u a f) 21 = a := by
  refine ⟨decodeLine_of_selects ?_, ?_, ?_, ?_⟩ <;>
    simp only [encodeMull, Selects, mullFields, reading, Nat.reduceLeDiff, Nat.reduceSub, and_self]

theorem encodeSwp_reads (b : Bool) (f : SwpFields) :
    decodeLine (encodeSwp b f) = .l9c ∧ swpFields (encodeSwp b f) = f ∧ bit (encodeSwp b f) 22 = b := by
  refine ⟨decodeLine_of_selects ?_, ?_, ?_⟩ <;>
    simp only [encodeSwp, Selects, swpFields, reading, Nat.reduceLeDiff, Nat.reduceSub, and_self]

theorem encodeHsImm_reads (l : Bool) {sh : BitVec 2} (h : sh ≠ 0b00#2) (f : HsImmFields) :
    decodeLine (encodeHsImm l sh f) = .l9d ∧ hsImmFields (encodeHsImm l sh f) = f ∧ bit (encodeHsImm l sh f) 20 = l ∧
      bit (encodeHsImm l sh f) 6 = sh.getLsbD 1 ∧ bit (encodeHsImm l sh f) 5 = sh.getLsbD 0 := by
  refine ⟨decodeLine_of_selects ?_, ?_, ?_, ?_, ?_⟩ <;>
    simp only [encodeHsImm, Selects, hsImmFields, reading, Nat.reduceLeDiff, Nat.reduceSub, BitVec.reduceGetLsb,
      and_self, not_false_eq_true, ne_eq, h]

theorem encodeHsReg_reads (l : Bool) {sh : BitVec 2} (h : sh ≠ 0b00#2) (f : HsRegFields) :
    decodeLine (encodeHsReg l sh f) = .l9e ∧ hsRegFields (encodeHsReg l sh f) = f ∧ bit (encodeHsReg l sh f) 20 = l ∧
      bit (encodeHsReg l sh f) 6 = sh.getLsbD 1 ∧ bit (encodeHsReg l sh f) 5 = sh.getLsbD 0 := by
  refine ⟨decodeLine_of_selects ?_, ?_, ?_, ?_, ?_⟩ <;>
    simp only [encodeHsReg, Selects, hsRegFields, reading, Nat.reduceLeDiff, Nat.reduceSub, BitVec.reduceGetLsb,
      and_self, not_false_eq_true, ne_eq, h]

theorem encodeMsrReg_reads (p : Bool) (f : MsrRegFields) :
    decodeLine (encodeMsrReg p f) = .l11 ∧ msrRegFields (encodeMsrReg p f) = f ∧ bit (encodeMsrReg p f) 22 = p := by
  refine ⟨decodeLine_of_selects ?_, ?_, ?_⟩ <;>
    simp only [encodeMsrReg, Selects, msrRegFields, reading, Nat.reduceLeDiff, Nat.reduceSub, and_self]

theorem encodeDpImm_reads (op : AluOp) (f : DpImmFields) (hs : aluWrites op = false → f.s = true) :
    decodeLine (encodeDpImm op f) = .l14 ∧ dpImmFields (encodeDpImm op f) = f ∧ bit (encodeDpImm op f) 25 = true ∧
      AluOp.ofBits (bits (encodeDpImm op f) 24 21) = op := by
  refine ⟨decodeLine_of_selects ?_, ?_, ?_, ?_⟩ <;>
    simp only [encodeDpImm, Selects, dpImmFields, reading, Nat.reduceLeDiff, Nat.reduceSub, BitVec.reduceGetLsb,
      and_self, Bool.true_eq_false, false_and, not_false_eq_true, compare_sets_flags hs]

theorem encodeDpShift_reads (op : AluOp) (f : DpShiftFields) (hs : aluWrites op = false → f.s = true) :
    decodeLine (encodeDpShift op f) = .l14 ∧ dpShiftFields (encodeDpShift op f) = f ∧
      bit (encodeDpShift op f) 25 = false ∧ bit (encodeDpShift op f) 4 = false ∧
      AluOp.ofBits (bits (encodeDpShift op f) 24 21) = op := by
  refine ⟨decodeLine_of_selects ?_, ?_, ?_, ?_, ?_⟩ <;>
    simp only [encodeDpShift, Selects, dpShiftFields, reading, Nat.reduceLeDiff, Nat.reduceSub, BitVec.reduceGetLsb,
      and_self, Bool.false_eq_true, and_false, not_false_eq_true, compare_sets_flags hs]

theorem encodeDpReg_reads (op : AluOp) (f : DpRegFields) (hs : aluWrites op = false → f.s = true) :
    decodeLine (encodeDpReg op f) = .l14 ∧ dpRegFields (encodeDpReg op f) = f ∧ bit (encodeDpReg op f) 25 = false ∧
      bit (encodeDpReg op f) 4 = true ∧ AluOp.ofBits (bits (encodeDpReg op f) 24 21) = op := by
  refine ⟨decodeLine_of_selects ?_, ?_, ?_, ?_, ?_⟩ <;>
    simp only [encodeDpReg, Selects, dpRegFields, reading, Nat.reduceLeDiff, Nat.reduceSub, BitVec.reduceGetLsb,
      and_self, Bool.false_eq_true, false_and, and_false, not_false_eq_true, compare_sets_flags hs]

theorem encode_bx_reads (f : BxFields) :
    decodeLine (encode (.bx f)) = .l1 ∧ bxFields (encode (.bx f)) = f := by
  refine ⟨decodeLine_of_selects ?_, ?_⟩ <;>
    simp only [encode, Selects, bxFields, reading, Nat.reduceLeDiff, Nat.reduceSub]

theorem encode_swi_reads (f : SwiFields) :
    decodeLine (encode (.swi f)) = .l3 ∧ swiFields (encode (.swi f)) = f := by
  refine ⟨decodeLine_of_selects ?_, ?_⟩ <;>
    simp only [encode, Selects, swiFields, reading, Nat.reduceLeDiff, Nat.reduceSub]

theorem encode_cdp_reads (f : CdpFields) :
    decodeLine (encode (.cdp f)) = .l4 ∧ cdpFields (encode (.cdp f)) = f ∧ bit (encode (.cdp f)) 4 = false := by
  refine ⟨decodeLine_of_selects ?_, ?_, ?_⟩ <;>
    simp only [encode, Selects, cdpFields, reading, Nat.reduceLeDiff, Nat.reduceSub, BitVec.reduceGetLsb]

theorem encode_undefSpace_reads (f : UndefSpaceFields) :
    decodeLine (encode (.undefSpace f)) = .l7 ∧ undefSpaceFields (encode (.undefSpace f)) = f := by
  refine ⟨decodeLine_of_selects ?_, ?_⟩ <;>
    simp only [encode, Selects, undefSpaceFields, reading, Nat.reduceLeDiff, Nat.reduceSub, BitVec.reduceGetLsb,
      and_self]

theorem encode_mrs_reads (f : MrsFields) :
    decodeLine (encode (.mrs f)) = .l10 ∧ mrsFields (encode (.mrs f)) = f := by
  refine ⟨decodeLine_of_selects ?_, ?_⟩ <;>
    simp only [encode, Selects, mrsFields, reading, Nat.reduceLeDiff, Nat.reduceSub, and_self]

theorem encode_undefMul_reads (f : UndefMulFields) (h : f.residue = true) :
    decodeLine (encode (.undefMul f)) = .l9f ∧ undefMulFields (encode (.undefMul f)) = f := by
  have hf : undefMulFields (encode (.undefMul f)) = f := by
    simp only [encode, undefMulFields, reading, Nat.reduceLeDiff, Nat.reduceSub]
  refine ⟨decodeLine_of_selects ?_, hf⟩
  simp only [Selects, hf, h]
  simp only [encode, reading, Nat.reduceLeDiff, Nat.reduceSub, and_self]

theorem encode_msrFlags_reads (f : MsrFlagsFields) (h : f.residue = true) :
    decodeLine (encode (.msrFlags f)) = .l12 ∧ msrFlagsFields (encode (.msrFlags f)) = f := by
  have hf : msrFlagsFields (encode (.msrFlags f)) = f := by
    simp only [encode, msrFlagsFields, reading, Nat.reduceLeDiff, Nat.reduceSub]
  refine ⟨decodeLine_of_selects ?_, hf⟩
  simp only [Selects, hf, h]
  simp only [encode, reading, Nat.reduceLeDiff, Nat.reduceSub, and_self]

theorem encode_undefPsr_reads (f : UndefPsrFields) (h : f.residue = true) :
    decodeLine (encode (.undefPsr f)) = .l13 ∧ undefPsrFields (encode (.undefPsr f)) = f := by
  have hf : undefPsrFields (encode (.undefPsr f)) = f := by
    simp only [encode, undefPsrFields, reading, Nat.reduceLeDiff, Nat.reduceSub]
  refine ⟨decodeLine_of_selects ?_, hf⟩
  simp only [Selects, hf, h]
  simp only [encode, reading, Nat.reduceLeDiff, Nat.reduceSub, BitVec.reduceGetLsb, and_self]

end Sys2Proof.Proofs
end

section
/-! Decoding after encoding: the obligation O1, from the lemma of each instruction's format. -/

namespace Sys2Proof.Proofs

open Sys2Proof Sys2Proof.Machine

theorem decodeWord_encodeDpImm (op : AluOp) (f : DpImmFields) (hs : aluWrites op = false → f.s = true) :
    decodeWord (encodeDpImm op f) = Instr.dpImm op f := by
  simp only [decodeWord, decodeDp, encodeDpImm_reads op f hs, if_true]

theorem decodeWord_encodeDpShift (op : AluOp) (f : DpShiftFields) (hs : aluWrites op = false → f.s = true) :
    decodeWord (encodeDpShift op f) = Instr.dpShift op f := by
  simp only [decodeWord, decodeDp, encodeDpShift_reads op f hs, if_true, Bool.false_eq_true, if_false]

theorem decodeWord_encodeDpReg (op : AluOp) (f : DpRegFields) (hs : aluWrites op = false → f.s = true) :
    decodeWord (encodeDpReg op f) = Instr.dpReg op f := by
  simp only [decodeWord, decodeDp, encodeDpReg_reads op f hs, Bool.false_eq_true, Bool.true_eq_false, if_false]

/-- Settles O1, format by format: the fields of a concatenation are its parts, and its fixed fields select its line. -/
theorem decodeOfEncode : Obligations.DecodeOfEncode := by
  intro i wf
  cases i with
  | bx f => simp only [decodeWord, encode_bx_reads]
  | b f | bl f => simp only [encode, decodeWord, encodeBranch_reads, if_true, Bool.false_eq_true, if_false]
  | swi f => simp only [decodeWord, encode_swi_reads]
  | cdp f => simp only [decodeWord, decodeCoproc, encode_cdp_reads, if_true]
  | mrc f | mcr f =>
    simp only [encode, decodeWord, decodeCoproc, encodeCopReg_reads, if_true, Bool.false_eq_true,
      Bool.true_eq_false, if_false]
  | ldc f | stc f => simp only [encode, decodeWord, encodeCopData_reads, if_true, Bool.false_eq_true, if_false]
  | ldmia f | ldmib f | ldmda f | ldmdb f | stmia f | stmib f | stmda f | stmdb f | ldmiaUser f | ldmibUser f
  | ldmdaUser f | ldmdbUser f | stmiaUser f | stmibUser f | stmdaUser f | stmdbUser f =>
    simp only [encode, decodeWord, decodeBlock, encodeBlock_reads]
  | undefSpace f => simp only [decodeWord, encode_undefSpace_reads]
  | ldrImmPre f | strImmPre f | ldrbImmPre f | strbImmPre f =>
    simp only [encode, decodeWord, decodeSingleImm, encodeImmPre_reads, Bool.false_eq_true, if_false]
  | ldrImmPost f | ldrtImm f | strImmPost f | strtImm f | ldrbImmPost f | ldrbtImm f | strbImmPost f | strbtImm f =>
    simp only [encode, decodeWord, decodeSingleImm, encodeImmPost_reads, Bool.false_eq_true, if_false]
  | ldrRegPre f | strRegPre f | ldrbRegPre f | strbRegPre f =>
    simp only [encode, decodeWord, decodeSingleReg, encodeRegPre_reads, if_true]
  | ldrRegPost f | ldrtReg f | strRegPost f | strtReg f | ldrbRegPost f | ldrbtReg f | strbRegPost f | strbtReg f =>
    simp only [encode, decodeWord, decodeSingleReg, encodeRegPost_reads, if_true]
  | mul f | mla f => simp only [encode, decodeWord, decodeMul, encodeMul_reads, if_true, Bool.false_eq_true, if_false]
  | umull f | umlal f | smull f | smlal f => simp only [encode, decodeWord, decodeMull, encodeMull_reads]
  | swp f | swpb f => simp only [encode, decodeWord, decodeSwp, encodeSwp_reads, if_true, Bool.false_eq_true, if_false]
  | ldrhImm f | strhImm f | ldrsbImm f | ldrshImm f | strsbImm f | strshImm f =>
    simp only [encode, decodeWord, decodeHsImm, encodeHsImm_reads, ne_eq, BitVec.reduceEq, not_false_eq_true,
      BitVec.reduceGetLsb]
  | ldrhReg f | strhReg f | ldrsbReg f | ldrshReg f | strsbReg f | strshReg f =>
    simp only [encode, decodeWord, decodeHsReg, encodeHsReg_reads, ne_eq, BitVec.reduceEq, not_false_eq_true,
      BitVec.reduceGetLsb]
  | undefMul f => simp only [decodeWord, encode_undefMul_reads f wf]
  | mrs f => simp only [decodeWord, encode_mrs_reads]
  | msrCpsr f | msrSpsr f => simp only [encode, decodeWord, encodeMsrReg_reads, if_true, Bool.false_eq_true, if_false]
  | msrFlags f => simp only [decodeWord, encode_msrFlags_reads f wf]
  | undefPsr f => simp only [decodeWord, encode_undefPsr_reads f wf]
  | andImm f | eorImm f | subImm f | rsbImm f | addImm f | adcImm f | sbcImm f | rscImm f | orrImm f | movImm f
  | bicImm f | mvnImm f => exact decodeWord_encodeDpImm _ f nofun
  | andShift f | eorShift f | subShift f | rsbShift f | addShift f | adcShift f | sbcShift f | rscShift f | orrShift f
  | movShift f | bicShift f | mvnShift f => exact decodeWord_encodeDpShift _ f nofun
  | andReg f | eorReg f | subReg f | rsbReg f | addReg f | adcReg f | sbcReg f | rscReg f | orrReg f | movReg f
  | bicReg f | mvnReg f => exact decodeWord_encodeDpReg _ f nofun
  | tstImm f | teqImm f | cmpImm f | cmnImm f => exact decodeWord_encodeDpImm _ f.toDp fun _ => rfl
  | tstShift f | teqShift f | cmpShift f | cmnShift f => exact decodeWord_encodeDpShift _ f.toDp fun _ => rfl
  | tstReg f | teqReg f | cmpReg f | cmnReg f => exact decodeWord_encodeDpReg _ f.toDp fun _ => rfl

end Sys2Proof.Proofs
end

section
/-! SUPPORT. The fields of a word encoded again (30_encoding.md R74 to R84): with the fields a line fixes, they join to
the word. One lemma per format. -/

namespace Sys2Proof.Proofs

open Sys2Proof Sys2Proof.Machine

theorem encodeBranch_branchFields {w : Word} (h : bits w 27 25 = 0b101#3) :
    encodeBranch (bit w 24) (branchFields w) = w := by
  rw [encodeBranch, ← h]
  simp only [branchFields, joining, Nat.reduceSub]
  exact BitVec.extractLsb'_eq_self

theorem encodeCopReg_copRegFields {w : Word} (h : bits w 27 24 = 0b1110#4) (h4 : bit w 4 = true) :
    encodeCopReg (bit w 20) (copRegFields w) = w := by
  rw [encodeCopReg, ← h, one_eq_field h4]
  simp only [copRegFields, joining, Nat.reduceSub]
  exact BitVec.extractLsb'_eq_self

theorem encodeCopData_copDataFields {w : Word} (h : bits w 27 25 = 0b110#3) :
    encodeCopData (bit w 20) (copDataFields w) = w := by
  rw [encodeCopData, ← h]
  simp only [copDataFields, joining, Nat.reduceSub]
  exact BitVec.extractLsb'_eq_self

theorem encodeBlock_blockFields {w : Word} (h : bits w 27 25 = 0b100#3) :
    encodeBlock (bit w 24) (bit w 23) (bit w 22) (bit w 20) (blockFields w) = w := by
  rw [encodeBlock, ← h]
  simp only [blockFields, joining, Nat.reduceSub]
  exact BitVec.extractLsb'_eq_self

theorem encodeImmPre_immPreFields {w : Word} (h : bits w 27 24 = 0b0101#4) :
    encodeImmPre (bit w 22) (bit w 20) (immPreFields w) = w := by
  rw [encodeImmPre, ← h]
  simp only [immPreFields, joining, Nat.reduceSub]
  exact BitVec.extractLsb'_eq_self

theorem encodeImmPost_immPostFields {w : Word} (h : bits w 27 24 = 0b0100#4) :
    encodeImmPost (bit w 22) (bit w 21) (bit w 20) (immPostFields w) = w := by
  rw [encodeImmPost, ← h]
  simp only [immPostFields, joining, Nat.reduceSub]
  exact BitVec.extractLsb'_eq_self

theorem encodeRegPre_regPreFields {w : Word} (h : bits w 27 24 = 0b0111#4) (h4 : bit w 4 = false) :
    encodeRegPre (bit w 22) (bit w 20) (regPreFields w) = w := by
  rw [encodeRegPre, ← h, zero_eq_field h4]
  simp only [regPreFields, joining, Nat.reduceSub]
  exact BitVec.extractLsb'_eq_self

theorem encodeRegPost_regPostFields {w : Word} (h : bits w 27 24 = 0b0110#4) (h4 : bit w 4 = false) :
    encodeRegPost (bit w 22) (bit w 21) (bit w 20) (regPostFields w) = w := by
  rw [encodeRegPost, ← h, zero_eq_field h4]
  simp only [regPostFields, joining, Nat.reduceSub]
  exact BitVec.extractLsb'_eq_self

theorem encodeMul_mulFields {w : Word} (h : bits w 27 22 = 0b000000#6) (h7 : bits w 7 4 = 0b1001#4) :
    encodeMul (bit w 21) (mulFields w) = w := by
  rw [encodeMul, ← h, ← h7]
  simp only [mulFields, joining, Nat.reduceSub]
  exact BitVec.extractLsb'_eq_self

theorem encodeMull_mullFields {w : Word} (h : bits w 27 23 = 0b00001#5) (h7 : bits w 7 4 = 0b1001#4) :
    encodeMull (bit w 22) (bit w 21) (mullFields w) = w := by
  rw [encodeMull, ← h, ← h7]
  simp only [mullFields, joining, Nat.reduceSub]
  exact BitVec.extractLsb'_eq_self

theorem encodeSwp_swpFields {w : Word} (h : bits w 27 23 = 0b00010#5) (h21 : bits w 21 20 = 0b00#2)
    (h11 : bits w 11 4 = 0b00001001#8) :
    encodeSwp (bit w 22) (swpFields w) = w := by
  rw [encodeSwp, ← h, ← h21, ← h11]
  simp only [swpFields, joining, Nat.reduceSub]
  exact BitVec.extractLsb'_eq_self

theorem encodeMsrReg_msrRegFields {w : Word} (h : bits w 27 23 = 0b00010#5)
    (h21 : bits w 21 4 = 0b101001111100000000#18) :
    encodeMsrReg (bit w 22) (msrRegFields w) = w := by
  rw [encodeMsrReg, ← h, ← h21]
  simp only [msrRegFields, joining, Nat.reduceSub]
  exact BitVec.extractLsb'_eq_self

theorem encodeDpImm_dpImmFields {w : Word} (h : bits w 27 25 = 0b001#3) :
    encodeDpImm (AluOp.ofBits (bits w 24 21)) (dpImmFields w) = w := by
  rw [encodeDpImm, ← h]
  simp only [dpImmFields, joining, Nat.reduceSub]
  exact BitVec.extractLsb'_eq_self

theorem encodeDpShift_dpShiftFields {w : Word} (h : bits w 27 25 = 0b000#3) (h4 : bit w 4 = false) :
    encodeDpShift (AluOp.ofBits (bits w 24 21)) (dpShiftFields w) = w := by
  rw [encodeDpShift, ← h, zero_eq_field h4]
  simp only [dpShiftFields, joining, Nat.reduceSub]
  exact BitVec.extractLsb'_eq_self

theorem encodeDpReg_dpRegFields {w : Word} (h : bits w 27 25 = 0b000#3) (h7 : bit w 7 = false) (h4 : bit w 4 = true) :
    encodeDpReg (AluOp.ofBits (bits w 24 21)) (dpRegFields w) = w := by
  rw [encodeDpReg, ← h, zero_eq_field h7, one_eq_field h4]
  simp only [dpRegFields, joining, Nat.reduceSub]
  exact BitVec.extractLsb'_eq_self

theorem encodeHsImm_hsImmFields {w : Word} (h : bits w 27 25 = 0b000#3) (h22 : bit w 22 = true) (h7 : bit w 7 = true)
    (h4 : bit w 4 = true) : encodeHsImm (bit w 20) (bits w 6 5) (hsImmFields w) = w := by
  rw [encodeHsImm, ← h]
  nth_rw 1 [one_eq_field h22]
  nth_rw 1 [one_eq_field h7]
  rw [one_eq_field h4]
  simp only [hsImmFields, joining, Nat.reduceSub]
  exact BitVec.extractLsb'_eq_self

theorem encodeHsReg_hsRegFields {w : Word} (h : bits w 27 25 = 0b000#3) (h22 : bit w 22 = false) (h7 : bit w 7 = true)
    (h4 : bit w 4 = true) : encodeHsReg (bit w 20) (bits w 6 5) (hsRegFields w) = w := by
  rw [encodeHsReg, ← h, zero_eq_field h22]
  nth_rw 1 [one_eq_field h7]
  rw [one_eq_field h4]
  simp only [hsRegFields, joining, Nat.reduceSub]
  exact BitVec.extractLsb'_eq_self

theorem encode_bx_bxFields {w : Word} (h : bits w 27 4 = 0x12FFF1#24) :
    encode (.bx (bxFields w)) = w := by
  rw [encode, ← h]
  simp only [bxFields, joining, Nat.reduceSub]
  exact BitVec.extractLsb'_eq_self

theorem encode_swi_swiFields {w : Word} (h : bits w 27 24 = 0b1111#4) :
    encode (.swi (swiFields w)) = w := by
  rw [encode, ← h]
  simp only [swiFields, joining, Nat.reduceSub]
  exact BitVec.extractLsb'_eq_self

theorem encode_cdp_cdpFields {w : Word} (h : bits w 27 24 = 0b1110#4) (h4 : bit w 4 = false) :
    encode (.cdp (cdpFields w)) = w := by
  rw [encode, ← h, zero_eq_field h4]
  simp only [cdpFields, joining, Nat.reduceSub]
  exact BitVec.extractLsb'_eq_self

theorem encode_undefSpace_undefSpaceFields {w : Word} (h : bits w 27 25 = 0b011#3) (h4 : bit w 4 = true) :
    encode (.undefSpace (undefSpaceFields w)) = w := by
  rw [encode, ← h, one_eq_field h4]
  simp only [undefSpaceFields, joining, Nat.reduceSub]
  exact BitVec.extractLsb'_eq_self

theorem encode_undefMul_undefMulFields {w : Word} (h : bits w 27 25 = 0b000#3) (h7 : bits w 7 4 = 0b1001#4) :
    encode (.undefMul (undefMulFields w)) = w := by
  rw [encode, ← h, ← h7]
  simp only [undefMulFields, joining, Nat.reduceSub]
  exact BitVec.extractLsb'_eq_self

theorem encode_mrs_mrsFields {w : Word} (h : bits w 27 23 = 0b00010#5) (h21 : bits w 21 16 = 0b001111#6)
    (h11 : bits w 11 0 = 0#12) :
    encode (.mrs (mrsFields w)) = w := by
  rw [encode, ← h, ← h21, ← h11]
  simp only [mrsFields, joining, Nat.reduceSub]
  exact BitVec.extractLsb'_eq_self

theorem encode_msrFlags_msrFlagsFields {w : Word} (h : bits w 27 26 = 0b00#2) (h24 : bits w 24 23 = 0b10#2)
    (h21 : bits w 21 12 = 0b1010001111#10) :
    encode (.msrFlags (msrFlagsFields w)) = w := by
  rw [encode, ← h, ← h24, ← h21]
  simp only [msrFlagsFields, joining, Nat.reduceSub]
  exact BitVec.extractLsb'_eq_self

theorem encode_undefPsr_undefPsrFields {w : Word} (h : bits w 27 26 = 0b00#2) (h24 : bits w 24 23 = 0b10#2)
    (h20 : bit w 20 = false) :
    encode (.undefPsr (undefPsrFields w)) = w := by
  rw [encode, ← h, ← h24, zero_eq_field h20]
  simp only [undefPsrFields, joining, Nat.reduceSub]
  exact BitVec.extractLsb'_eq_self

end Sys2Proof.Proofs
end

section
/-! Encoding after decoding: the obligation O2. The instruction each line's decoder builds is encoded in the format of
that line, and so is the word it was decoded from. -/

namespace Sys2Proof.Proofs

open Sys2Proof Sys2Proof.Machine

theorem encode_decodeCoproc {w : Word} (h : bits w 27 24 = 0b1110#4) : encode (decodeCoproc w) = w := by
  unfold decodeCoproc
  cases h4 : bit w 4 with
  | false => exact encode_cdp_cdpFields h h4
  | true =>
    have hreg := encodeCopReg_copRegFields h h4
    cases h20 : bit w 20 <;> rw [h20] at hreg <;> exact hreg

theorem encode_decodeBlock (w : Word) :
    encode (decodeBlock w) = encodeBlock (bit w 24) (bit w 23) (bit w 22) (bit w 20) (blockFields w) := by
  unfold decodeBlock
  cases bit w 20 <;> cases bit w 22 <;> cases bit w 24 <;> cases bit w 23 <;> rfl

theorem encode_decodeSingleImm (w : Word) :
    encode (decodeSingleImm w) =
      if bit w 24 = true then encodeImmPre (bit w 22) (bit w 20) (immPreFields w)
      else encodeImmPost (bit w 22) (bit w 21) (bit w 20) (immPostFields w) := by
  unfold decodeSingleImm
  cases bit w 24 <;> cases bit w 21 <;> cases bit w 20 <;> cases bit w 22 <;> rfl

theorem encode_decodeSingleReg (w : Word) :
    encode (decodeSingleReg w) =
      if bit w 24 = true then encodeRegPre (bit w 22) (bit w 20) (regPreFields w)
      else encodeRegPost (bit w 22) (bit w 21) (bit w 20) (regPostFields w) := by
  unfold decodeSingleReg
  cases bit w 24 <;> cases bit w 21 <;> cases bit w 20 <;> cases bit w 22 <;> rfl

theorem encode_decodeSingleImm_of_selects {w : Word} (h : Selects w .l8) (h25 : bit w 25 = false) :
    encode (decodeSingleImm w) = w := by
  obtain ⟨h27, h26, -⟩ := h
  rw [encode_decodeSingleImm]
  cases h24 : bit w 24 with
  | true => exact encodeImmPre_immPreFields ((field_eq_iff_bits w 27 24 _).mpr ⟨h27, h26, h25, h24, trivial⟩)
  | false => exact encodeImmPost_immPostFields ((field_eq_iff_bits w 27 24 _).mpr ⟨h27, h26, h25, h24, trivial⟩)

theorem encode_decodeSingleReg_of_selects {w : Word} (h : Selects w .l8) (h25 : bit w 25 = true) :
    encode (decodeSingleReg w) = w := by
  obtain ⟨h27, h26, hund⟩ := h
  have h4 : bit w 4 = false := Bool.eq_false_iff.mpr fun h4 => hund ⟨h25, h4⟩
  rw [encode_decodeSingleReg]
  cases h24 : bit w 24 with
  | true => exact encodeRegPre_regPreFields ((field_eq_iff_bits w 27 24 _).mpr ⟨h27, h26, h25, h24, trivial⟩) h4
  | false => exact encodeRegPost_regPostFields ((field_eq_iff_bits w 27 24 _).mpr ⟨h27, h26, h25, h24, trivial⟩) h4

theorem encode_decodeMul (w : Word) : encode (decodeMul w) = encodeMul (bit w 21) (mulFields w) := by
  unfold decodeMul
  cases bit w 21 <;> rfl

theorem encode_decodeMull (w : Word) : encode (decodeMull w) = encodeMull (bit w 22) (bit w 21) (mullFields w) := by
  unfold decodeMull
  cases bit w 22 <;> cases bit w 21 <;> rfl

theorem encode_decodeSwp (w : Word) : encode (decodeSwp w) = encodeSwp (bit w 22) (swpFields w) := by
  unfold decodeSwp
  cases bit w 22 <;> rfl

theorem sh_eq_flags (w : Word) : bits w 6 5 = flag (bit w 6) ++ flag (bit w 5) := by
  simp only [joining, Nat.reduceSub]

/-- The values SH has on line 9d or 9e, by its two bits. -/
theorem sh_cases {w : Word} (h : bits w 6 5 ≠ 0b00#2) :
    (bit w 6 = false ∧ bit w 5 = true ∧ bits w 6 5 = 0b01#2) ∨
      (bit w 6 = true ∧ bit w 5 = false ∧ bits w 6 5 = 0b10#2) ∨
      (bit w 6 = true ∧ bit w 5 = true ∧ bits w 6 5 = 0b11#2) := by
  rw [sh_eq_flags] at h ⊢
  revert h
  cases bit w 6 <;> cases bit w 5 <;> decide

theorem encode_decodeHsImm {w : Word} (h : bits w 6 5 ≠ 0b00#2) :
    encode (decodeHsImm w) = encodeHsImm (bit w 20) (bits w 6 5) (hsImmFields w) := by
  obtain ⟨h6, h5, hsh⟩ | ⟨h6, h5, hsh⟩ | ⟨h6, h5, hsh⟩ := sh_cases h <;> simp only [decodeHsImm, h6, h5, hsh] <;>
    cases bit w 20 <;> rfl

theorem encode_decodeHsReg {w : Word} (h : bits w 6 5 ≠ 0b00#2) :
    encode (decodeHsReg w) = encodeHsReg (bit w 20) (bits w 6 5) (hsRegFields w) := by
  obtain ⟨h6, h5, hsh⟩ | ⟨h6, h5, hsh⟩ | ⟨h6, h5, hsh⟩ := sh_cases h <;> simp only [decodeHsReg, h6, h5, hsh] <;>
    cases bit w 20 <;> rfl

theorem encode_dpImm {op : AluOp} {f : DpImmFields} (hs : aluWrites op = false → f.s = true) :
    encode (Instr.dpImm op f) = encodeDpImm op f := by
  obtain ⟨cond, s, rn, rd, rot, imm8⟩ := f
  cases op with
  | tst | teq | cmp | cmn => obtain rfl : s = true := hs rfl; rfl
  | and | eor | sub | rsb | add | adc | sbc | rsc | orr | mov | bic | mvn => rfl

theorem encode_dpShift {op : AluOp} {f : DpShiftFields} (hs : aluWrites op = false → f.s = true) :
    encode (Instr.dpShift op f) = encodeDpShift op f := by
  obtain ⟨cond, s, rn, rd, shiftImm, type, rm⟩ := f
  cases op with
  | tst | teq | cmp | cmn => obtain rfl : s = true := hs rfl; rfl
  | and | eor | sub | rsb | add | adc | sbc | rsc | orr | mov | bic | mvn => rfl

theorem encode_dpReg {op : AluOp} {f : DpRegFields} (hs : aluWrites op = false → f.s = true) :
    encode (Instr.dpReg op f) = encodeDpReg op f := by
  obtain ⟨cond, s, rn, rd, rs, type, rm⟩ := f
  cases op with
  | tst | teq | cmp | cmn => obtain rfl : s = true := hs rfl; rfl
  | and | eor | sub | rsb | add | adc | sbc | rsc | orr | mov | bic | mvn => rfl

theorem aluWrites_ofBits (b : BitVec 4) :
    aluWrites (AluOp.ofBits b) = false ↔ b.getLsbD 3 = true ∧ b.getLsbD 2 = false := by
  decide +revert

/-- R72: a comparison in class DP has S = 1. -/
theorem s_of_compare {w : Word} (h : Selects w .l14) (ho : aluWrites (AluOp.ofBits (bits w 24 21)) = false) :
    bit w 20 = true := by
  obtain ⟨-, -, -, hpsr⟩ := h
  rw [aluWrites_ofBits] at ho
  simp only [BitVec.getLsbD_extractLsb, Nat.reduceSub, Nat.reduceAdd, Nat.reduceLT, decide_true, Bool.true_and] at ho
  by_contra h20
  exact hpsr ⟨ho.1, ho.2, Bool.eq_false_iff.mpr h20⟩

theorem encode_decodeDp {w : Word} (h : Selects w .l14) : encode (decodeDp w) = w := by
  have hs := s_of_compare h
  obtain ⟨h27, h26, hmul, -⟩ := h
  unfold decodeDp
  split_ifs with h25 h4
  · rw [encode_dpImm hs]
    exact encodeDpImm_dpImmFields ((field_eq_iff_bits w 27 25 _).mpr ⟨h27, h26, h25, trivial⟩)
  · rw [encode_dpShift hs]
    have h25 := Bool.eq_false_iff.mpr h25
    exact encodeDpShift_dpShiftFields ((field_eq_iff_bits w 27 25 _).mpr ⟨h27, h26, h25, trivial⟩) h4
  · rw [encode_dpReg hs]
    have h25 := Bool.eq_false_iff.mpr h25
    have h4 : bit w 4 = true := by simpa using h4
    have h7 : bit w 7 = false := Bool.eq_false_iff.mpr fun h7 => hmul ⟨h25, h7, h4⟩
    exact encodeDpReg_dpRegFields ((field_eq_iff_bits w 27 25 _).mpr ⟨h27, h26, h25, trivial⟩) h7 h4

theorem encode_decodeWord (w : Word) : encode (decodeWord w) = w := by
  have hsel := selects_decodeLine w
  unfold decodeWord
  generalize decodeLine w = l at hsel
  cases l with
  | l1 => exact encode_bx_bxFields hsel
  | l2 =>
    have h := encodeBranch_branchFields hsel
    cases h24 : bit w 24 <;> rw [h24] at h <;> exact h
  | l3 => exact encode_swi_swiFields hsel
  | l4 => exact encode_decodeCoproc hsel
  | l5 =>
    have h := encodeCopData_copDataFields hsel
    cases h20 : bit w 20 <;> rw [h20] at h <;> exact h
  | l6 => exact (encode_decodeBlock w).trans (encodeBlock_blockFields hsel)
  | l7 => exact encode_undefSpace_undefSpaceFields hsel.1 hsel.2
  | l8 =>
    cases h25 : bit w 25 with
    | false => exact encode_decodeSingleImm_of_selects hsel h25
    | true => exact encode_decodeSingleReg_of_selects hsel h25
  | l9a => exact (encode_decodeMul w).trans (encodeMul_mulFields hsel.1 hsel.2)
  | l9b => exact (encode_decodeMull w).trans (encodeMull_mullFields hsel.1 hsel.2)
  | l9c =>
    obtain ⟨h27, h21, h11⟩ := hsel
    exact (encode_decodeSwp w).trans (encodeSwp_swpFields h27 h21 h11)
  | l9d =>
    obtain ⟨h27, h22, h7, hsh, h4⟩ := hsel
    exact (encode_decodeHsImm hsh).trans (encodeHsImm_hsImmFields h27 h22 h7 h4)
  | l9e =>
    obtain ⟨h27, h22, h7, hsh, h4⟩ := hsel
    exact (encode_decodeHsReg hsh).trans (encodeHsReg_hsRegFields h27 h22 h7 h4)
  | l9f =>
    obtain ⟨h27, h7, -⟩ := hsel
    exact encode_undefMul_undefMulFields h27 h7
  | l10 =>
    obtain ⟨h27, h21, h11⟩ := hsel
    exact encode_mrs_mrsFields h27 h21 h11
  | l11 =>
    have h := encodeMsrReg_msrRegFields hsel.1 hsel.2
    cases h22 : bit w 22 <;> rw [h22] at h <;> exact h
  | l12 =>
    obtain ⟨h27, h24, h21, -⟩ := hsel
    exact encode_msrFlags_msrFlagsFields h27 h24 h21
  | l13 =>
    obtain ⟨h27, h24, h20, -⟩ := hsel
    exact encode_undefPsr_undefPsrFields h27 h24 h20
  | l14 => exact encode_decodeDp hsel

theorem wellFormed_dpImm (op : AluOp) (f : DpImmFields) : (Instr.dpImm op f).WellFormed = true := by cases op <;> rfl

theorem wellFormed_dpShift (op : AluOp) (f : DpShiftFields) : (Instr.dpShift op f).WellFormed = true := by
  cases op <;> rfl

theorem wellFormed_dpReg (op : AluOp) (f : DpRegFields) : (Instr.dpReg op f).WellFormed = true := by cases op <;> rfl

/-- Only lines 9f, 12 and 13 have something to check, and a word they select passes it. -/
theorem wellFormed_decodeWord (w : Word) : (decodeWord w).WellFormed = true := by
  have hsel := selects_decodeLine w
  unfold decodeWord
  generalize decodeLine w = l at hsel
  cases l with
  | l9f => obtain ⟨-, -, hres⟩ := hsel; exact hres
  | l12 => obtain ⟨-, -, -, hres⟩ := hsel; exact hres
  | l13 => obtain ⟨-, -, -, hres⟩ := hsel; exact hres
  | l1 | l3 | l7 | l10 => rfl
  | l2 | l5 | l11 => dsimp only; split <;> rfl
  | l4 => dsimp only [decodeCoproc]; split_ifs <;> rfl
  | l6 => dsimp only [decodeBlock]; split <;> rfl
  | l8 => dsimp only [decodeSingleImm, decodeSingleReg]; split <;> split <;> rfl
  | l9a => dsimp only [decodeMul]; split <;> rfl
  | l9b => dsimp only [decodeMull]; split <;> rfl
  | l9c => dsimp only [decodeSwp]; split <;> rfl
  | l9d => dsimp only [decodeHsImm]; split <;> rfl
  | l9e => dsimp only [decodeHsReg]; split <;> rfl
  | l14 =>
    dsimp only [decodeDp]
    split_ifs
    · exact wellFormed_dpImm _ _
    · exact wellFormed_dpShift _ _
    · exact wellFormed_dpReg _ _

/-- Settles O2: what the line of a word leaves open of it is in the fields, and what it fixes the format writes. -/
theorem encodeOfDecode : Obligations.EncodeOfDecode := fun w => ⟨wellFormed_decodeWord w, encode_decodeWord w⟩

end Sys2Proof.Proofs
end

section
/-! The decoded instruction against the word (30_encoding.md R72, R74 to R86): its class (O4), the fields of its
descriptor (O6 to O8), and the fields its execution ignores (O9). -/

namespace Sys2Proof.Proofs

open Sys2Proof Sys2Proof.Machine Sys2Proof.Laws

theorem cls_cond_dpImm (op : AluOp) (f : DpImmFields) :
    (Instr.dpImm op f).cls = .dp ∧ (Instr.dpImm op f).cond = f.cond := by cases op <;> exact ⟨rfl, rfl⟩

theorem cls_cond_dpShift (op : AluOp) (f : DpShiftFields) :
    (Instr.dpShift op f).cls = .dp ∧ (Instr.dpShift op f).cond = f.cond := by cases op <;> exact ⟨rfl, rfl⟩

theorem cls_cond_dpReg (op : AluOp) (f : DpRegFields) :
    (Instr.dpReg op f).cls = .dp ∧ (Instr.dpReg op f).cond = f.cond := by cases op <;> exact ⟨rfl, rfl⟩

/-- R71 and R72: the class of a word is that of its line, and its condition is bits 31:28 in every format. -/
theorem cls_cond_decodeWord (w : Word) :
    (decodeWord w).cls = (decodeLine w).cls ∧ (decodeWord w).cond = condOf w := by
  unfold decodeWord
  generalize decodeLine w = l
  cases l with
  | l1 | l3 | l7 | l9f | l10 | l12 | l13 => exact ⟨rfl, rfl⟩
  | l2 | l5 | l11 => dsimp only; split <;> exact ⟨rfl, rfl⟩
  | l4 => dsimp only [decodeCoproc]; split_ifs <;> exact ⟨rfl, rfl⟩
  | l6 => dsimp only [decodeBlock]; split <;> exact ⟨rfl, rfl⟩
  | l8 => dsimp only [decodeSingleImm, decodeSingleReg]; split <;> split <;> exact ⟨rfl, rfl⟩
  | l9a => dsimp only [decodeMul]; split <;> exact ⟨rfl, rfl⟩
  | l9b => dsimp only [decodeMull]; split <;> exact ⟨rfl, rfl⟩
  | l9c => dsimp only [decodeSwp]; split <;> exact ⟨rfl, rfl⟩
  | l9d => dsimp only [decodeHsImm]; split <;> exact ⟨rfl, rfl⟩
  | l9e => dsimp only [decodeHsReg]; split <;> exact ⟨rfl, rfl⟩
  | l14 =>
    dsimp only [decodeDp]
    split_ifs
    · exact cls_cond_dpImm _ _
    · exact cls_cond_dpShift _ _
    · exact cls_cond_dpReg _ _

theorem cls_decodeWord (w : Word) : (decodeWord w).cls = (decodeLine w).cls := (cls_cond_decodeWord w).1

/-- Every class but COPROC and UNDEFINED has one line, so that the class of a word tells its line. -/
theorem decodeLine_of_cls {w : Word} {l : DecodeLine} (h : (decodeWord w).cls = l.cls)
    (hl : l ∉ [DecodeLine.l4, .l5, .l7, .l9f, .l13]) : decodeLine w = l := by
  rw [cls_decodeWord] at h
  generalize decodeLine w = l' at h
  revert h hl
  cases l <;> cases l' <;> decide

/-- R72: no test reads bits 31:28. -/
theorem decodeLine_and_low (w : Word) : decodeLine (w &&& 0x0FFFFFFF#32) = decodeLine w := by
  simp only [decodeLine, BitVec.and_assoc, BitVec.reduceAnd, field_eq_iff_bits, FieldBits, bit, BitVec.getLsbD_and,
    BitVec.reduceGetLsb, Bool.and_true, Nat.reduceAdd, Nat.reduceSub, ne_eq]

theorem compare_iff (w : Word) : bits w 24 23 = 0b10#2 ↔ bit w 24 = true ∧ bit w 23 = false := by
  rw [field_eq_iff_bits]
  simp only [FieldBits, and_true]; rfl

/-- Settles O4: the class is that of the line, R72's tests in order are the decoder's, and line 14 excludes line 13. -/
theorem classOfAWord : Obligations.ClassOfAWord := by
  refine ⟨fun w => ?_, fun v w h => ?_, fun w hc ho => ?_⟩
  · rw [cls_decodeWord]
    simp only [decodeLine, apply_ite DecodeLine.cls]
    rfl
  · rw [cls_decodeWord, cls_decodeWord, ← decodeLine_and_low v, ← decodeLine_and_low w]
    exact congrArg (fun x => (decodeLine x).cls) h
  · obtain ⟨-, -, -, hs⟩ := decodeLine_eq_iff.mp (decodeLine_of_cls (l := .l14) hc (by decide))
    obtain ⟨h24, h23⟩ := (compare_iff w).mp ho
    by_contra h20
    exact hs ⟨h24, h23, Bool.eq_false_iff.mpr h20⟩

theorem describe_dpImm {op : AluOp} {f : DpImmFields} (hs : aluWrites op = false → f.s = true) :
    describe (Instr.dpImm op f) = .dataProcessing op f.s f.rn f.rd (.imm f.rot f.imm8) := by
  cases op with
  | tst | teq | cmp | cmn => rw [hs rfl]; rfl
  | and | eor | sub | rsb | add | adc | sbc | rsc | orr | mov | bic | mvn => rfl

theorem describe_dpShift {op : AluOp} {f : DpShiftFields} (hs : aluWrites op = false → f.s = true) :
    describe (Instr.dpShift op f) = .dataProcessing op f.s f.rn f.rd (.shift f.type f.shiftImm f.rm) := by
  cases op with
  | tst | teq | cmp | cmn => rw [hs rfl]; rfl
  | and | eor | sub | rsb | add | adc | sbc | rsc | orr | mov | bic | mvn => rfl

theorem describe_dpReg {op : AluOp} {f : DpRegFields} (hs : aluWrites op = false → f.s = true) :
    describe (Instr.dpReg op f) = .dataProcessing op f.s f.rn f.rd (.regShift f.type f.rs f.rm) := by
  cases op with
  | tst | teq | cmp | cmn => rw [hs rfl]; rfl
  | and | eor | sub | rsb | add | adc | sbc | rsc | orr | mov | bic | mvn => rfl

/-- Operand 2 of a word of class DP (R75, R76). -/
def operand2Of (w : Word) : Operand2 :=
  if bit w 25 = true then .imm (bits w 11 8) (bits w 7 0)
  else if bit w 4 = false then .shift (ShiftType.ofBits (bits w 6 5)) (bits w 11 7) (bits w 3 0)
  else .regShift (ShiftType.ofBits (bits w 6 5)) (bits w 11 8) (bits w 3 0)

/-- R74 to R76: the descriptor of a word that line 14 selects. -/
theorem describe_decodeWord_dp {w : Word} (h : Selects w .l14) :
    describe (decodeWord w) =
      .dataProcessing (AluOp.ofBits (bits w 24 21)) (bit w 20) (bits w 19 16) (bits w 15 12) (operand2Of w) := by
  have hs := s_of_compare h
  simp only [decodeWord, decodeLine_of_selects h, decodeDp, operand2Of]
  split_ifs with h25 h4
  · exact describe_dpImm hs
  · exact describe_dpShift hs
  · exact describe_dpReg hs

/-- Settles O6: line 14's word has the fields where R74 to R76 put them, and is no word of line 9. -/
theorem dataProcessingFields : Obligations.DataProcessingFields := by
  refine ⟨fun w hc => ?_, by decide, by decide⟩
  have h : Selects w .l14 := decodeLine_eq_iff.mp (decodeLine_of_cls hc (by decide))
  have ⟨_, _, hmul, _⟩ := h
  exact ⟨describe_decodeWord_dp h, hmul⟩

theorem describe_decodeSingleImm (w : Word) :
    describe (decodeSingleImm w) = .single
      { kind := if bit w 22 = true then .ubyte else .word
        load := bit w 20, p := bit w 24, u := bit w 23, w := bit w 21, rn := bits w 19 16, rd := bits w 15 12
        offset := .imm12 (bits w 11 0) } := by
  unfold decodeSingleImm immPreFields immPostFields
  cases bit w 24 <;> cases bit w 21 <;> cases bit w 20 <;> cases bit w 22 <;> rfl

theorem describe_decodeSingleReg (w : Word) :
    describe (decodeSingleReg w) = .single
      { kind := if bit w 22 = true then .ubyte else .word
        load := bit w 20, p := bit w 24, u := bit w 23, w := bit w 21, rn := bits w 19 16, rd := bits w 15 12
        offset := .shifted (ShiftType.ofBits (bits w 6 5)) (bits w 11 7) (bits w 3 0) } := by
  unfold decodeSingleReg regPreFields regPostFields
  cases bit w 24 <;> cases bit w 21 <;> cases bit w 20 <;> cases bit w 22 <;> rfl

/-- The kind SH gives (R220). -/
def kindOfSh (sh : BitVec 2) : TransferKind := if sh = 0b01 then .uhalf else if sh = 0b10 then .sbyte else .shalf

theorem describe_decodeHsImm {w : Word} (h : bits w 6 5 ≠ 0b00#2) :
    describe (decodeHsImm w) = .single (transferHsImm (hsImmFields w) (kindOfSh (bits w 6 5)) (bit w 20)) := by
  obtain ⟨h6, h5, hsh⟩ | ⟨h6, h5, hsh⟩ | ⟨h6, h5, hsh⟩ := sh_cases h <;> simp only [decodeHsImm, h6, h5, hsh] <;>
    cases bit w 20 <;> rfl

theorem describe_decodeHsReg {w : Word} (h : bits w 6 5 ≠ 0b00#2) :
    describe (decodeHsReg w) = .single (transferHsReg (hsRegFields w) (kindOfSh (bits w 6 5)) (bit w 20)) := by
  obtain ⟨h6, h5, hsh⟩ | ⟨h6, h5, hsh⟩ | ⟨h6, h5, hsh⟩ := sh_cases h <;> simp only [decodeHsReg, h6, h5, hsh] <;>
    cases bit w 20 <;> rfl

/-- R82: the descriptor of a word that line 9e selects. -/
theorem describe_decodeWord_hsReg {w : Word} (h : Selects w .l9e) :
    describe (decodeWord w) = .single (transferHsReg (hsRegFields w) (kindOfSh (bits w 6 5)) (bit w 20)) := by
  have ⟨_, _, _, hsh, _⟩ := h
  simp only [decodeWord, decodeLine_of_selects h]
  exact describe_decodeHsReg hsh

/-- Settles O7: the class tells the line, and the descriptor of what that line's decoder builds has the fields
of R81 or R82. -/
theorem singleTransferFields : Obligations.SingleTransferFields := by
  refine ⟨fun w => ⟨fun hc => ?_, fun hc => ?_⟩, by decide⟩
  · have hl := decodeLine_of_cls (l := .l8) hc (by decide)
    cases h25 : bit w 25 with
    | true =>
      simp only [decodeWord, hl, h25, if_true]
      exact describe_decodeSingleReg w
    | false =>
      simp only [decodeWord, hl, h25, Bool.false_eq_true, if_false]
      exact describe_decodeSingleImm w
  · rcases hc with hc | hc
    · have hl := decodeLine_of_cls (l := .l9d) hc (by decide)
      obtain ⟨-, h22, -, hsh, -⟩ := decodeLine_eq_iff.mp hl
      refine ⟨hsh, ?_⟩
      simp only [decodeWord, hl, h22, if_true]
      exact describe_decodeHsImm hsh
    · have hl := decodeLine_of_cls (l := .l9e) hc (by decide)
      obtain ⟨-, h22, -, hsh, -⟩ := decodeLine_eq_iff.mp hl
      refine ⟨hsh, ?_⟩
      simp only [decodeWord, hl, h22, Bool.false_eq_true, if_false]
      exact describe_decodeHsReg hsh

theorem describe_decodeBlock (w : Word) :
    describe (decodeBlock w) = .block (bit w 22)
      { load := bit w 20, p := bit w 24, u := bit w 23, w := bit w 21, rn := bits w 19 16, list := bits w 15 0 } := by
  unfold decodeBlock
  cases bit w 20 <;> cases bit w 22 <;> cases bit w 24 <;> cases bit w 23 <;> rfl

/-- Settles O8: the class tells the line, and the line its format. -/
theorem otherFields : Obligations.OtherFields := by
  intro w
  refine ⟨fun hc => ?_, fun hc => ?_, fun hc => ?_, fun hc => ?_, fun hc => ?_⟩
  · simp only [decodeWord, decodeLine_of_cls (l := .l2) hc (by decide)]
    cases bit w 24 <;> rfl
  · simp only [decodeWord, decodeLine_of_cls (l := .l1) hc (by decide)]
    rfl
  · simp only [decodeWord, decodeLine_of_cls (l := .l3) hc (by decide)]
    rfl
  · simp only [decodeWord, decodeLine_of_cls (l := .l11) hc (by decide)]
    cases bit w 22 <;> rfl
  · simp only [decodeWord, decodeLine_of_cls (l := .l6) hc (by decide)]
    exact describe_decodeBlock w

/-! ### Ignored fields (R86) -/

theorem extract_and {w m : Word} {lo n : Nat} (h : m.extractLsb' lo n = BitVec.allOnes n) :
    (w &&& m).extractLsb' lo n = w.extractLsb' lo n := by
  rw [BitVec.extractLsb'_and, h, BitVec.and_allOnes]

theorem bit_and {w m : Word} {k : Nat} (h : m.getLsbD k = true) : (w &&& m).getLsbD k = w.getLsbD k := by
  rw [BitVec.getLsbD_and, h, Bool.and_true]

/-- What a mask keeps of the fields and flags of a word. -/
theorem masking :
    (∀ (w : Word) (hi lo : Nat), w.extractLsb hi lo = w.extractLsb' lo (hi - lo + 1)) ∧
      (∀ w : Word, condOf w = Cond.ofBits (w.extractLsb' 28 4)) ∧
      (∀ (w m : Word) (lo n : Nat), m.extractLsb' lo n = BitVec.allOnes n →
        (w &&& m).extractLsb' lo n = w.extractLsb' lo n) ∧
      ∀ (w m : Word) (k : Nat), m.getLsbD k = true → (w &&& m).getLsbD k = w.getLsbD k :=
  ⟨fun _ _ _ => rfl, fun _ => rfl, fun _ _ _ _ => extract_and, fun _ _ _ => bit_and⟩

/-- Instructions of one class and condition whose handlers agree execute alike. -/
theorem exec_congr {i j : Instr} (hcls : i.cls = j.cls) (hcond : i.cond = j.cond)
    (hh : (describe i).handler = (describe j).handler) (s : State) : exec i s = exec j s := by
  rw [exec_eq_handler, exec_eq_handler, hcls, hcond, hh]

/-- As `exec_congr`, of words on one line of R72. -/
theorem exec_decodeWord_congr {v w : Word} (hl : decodeLine v = decodeLine w) (hc : condOf v = condOf w)
    (hh : (describe (decodeWord v)).handler = (describe (decodeWord w)).handler) (s : State) :
    exec (decodeWord v) s = exec (decodeWord w) s := by
  obtain ⟨hv, hcv⟩ := cls_cond_decodeWord v
  obtain ⟨hw, hcw⟩ := cls_cond_decodeWord w
  exact exec_congr (by rw [hv, hw, hl]) (by rw [hcv, hcw, hc]) hh s

/-- MOV and MVN read no Rn (R189, R191). -/
theorem dataProcessing_ignores_rn {op : AluOp} (h : op = .mov ∨ op = .mvn) (f : Bool) (rn rn' rd : RegIx)
    (o : Operand2) :
    dataProcessing op f rn rd o = dataProcessing op f rn' rd o := by
  rcases h with rfl | rfl <;> rfl

/-- The comparisons write no Rd (R184 to R187). -/
theorem dataProcessing_ignores_rd {op : AluOp} (h : aluWrites op = false) (f : Bool) (rn rd rd' : RegIx)
    (o : Operand2) :
    dataProcessing op f rn rd o = dataProcessing op f rn rd' o := by
  funext s
  simp only [dataProcessing, statusUpdate, h, Bool.false_eq_true, and_false, if_false, Bool.false_and]

theorem aluOp_mov_or_mvn {b : BitVec 4} (h : b = 0b1101 ∨ b = 0b1111) :
    AluOp.ofBits b = .mov ∨ AluOp.ofBits b = .mvn := by
  rcases h with rfl | rfl
  · exact .inl rfl
  · exact .inr rfl

/-- Settles O9: with the field cleared the word keeps its line and condition, and its handler is the same function. -/
theorem ignoredFields : Obligations.IgnoredFields := by
  intro w s
  refine ⟨fun hc ho => ?_, fun hc ho => ?_, fun hc => ?_⟩
  · have h : Selects w .l14 := decodeLine_eq_iff.mp (decodeLine_of_cls hc (by decide))
    have h' : Selects (w &&& 0xFFF0FFFF) .l14 := by
      simpa only [Selects, masking, BitVec.reduceGetLsb, BitVec.ofNat_eq_ofNat] using h
    refine exec_decodeWord_congr (by rw [decodeLine_of_selects h, decodeLine_of_selects h']) ?_ ?_ s
    · simp only [masking, BitVec.reduceExtractLsb', BitVec.reduceAllOnes, BitVec.ofNat_eq_ofNat]
    · rw [describe_decodeWord_dp h, describe_decodeWord_dp h']
      simp only [Descriptor.handler, operand2Of, masking, BitVec.reduceExtractLsb', BitVec.reduceAllOnes,
        BitVec.reduceGetLsb, BitVec.ofNat_eq_ofNat, Nat.reduceSub, Nat.reduceAdd]
      exact dataProcessing_ignores_rn (aluOp_mov_or_mvn ho) _ _ _ _ _
  · have h : Selects w .l14 := decodeLine_eq_iff.mp (decodeLine_of_cls hc (by decide))
    have h' : Selects (w &&& 0xFFFF0FFF) .l14 := by
      simpa only [Selects, masking, BitVec.reduceGetLsb, BitVec.ofNat_eq_ofNat] using h
    refine exec_decodeWord_congr (by rw [decodeLine_of_selects h, decodeLine_of_selects h']) ?_ ?_ s
    · simp only [masking, BitVec.reduceExtractLsb', BitVec.reduceAllOnes, BitVec.ofNat_eq_ofNat]
    · rw [describe_decodeWord_dp h, describe_decodeWord_dp h']
      simp only [Descriptor.handler, operand2Of, masking, BitVec.reduceExtractLsb', BitVec.reduceAllOnes,
        BitVec.reduceGetLsb, BitVec.ofNat_eq_ofNat, Nat.reduceSub, Nat.reduceAdd]
      have hop : aluWrites (AluOp.ofBits (bits w 24 21)) = false := by
        rw [aluWrites_ofBits]
        simpa [BitVec.getLsbD_extractLsb] using (compare_iff w).mp ho
      exact dataProcessing_ignores_rd hop _ _ _ _ _
  · have h : Selects w .l9e := decodeLine_eq_iff.mp (decodeLine_of_cls hc (by decide))
    have h' : Selects (w &&& 0xFFFFF0FF) .l9e := by
      simpa only [Selects, masking, BitVec.reduceGetLsb, BitVec.ofNat_eq_ofNat, BitVec.reduceExtractLsb',
        BitVec.reduceAllOnes, Nat.reduceSub, Nat.reduceAdd] using h
    refine exec_decodeWord_congr (by rw [decodeLine_of_selects h, decodeLine_of_selects h']) ?_ ?_ s
    · simp only [masking, BitVec.reduceExtractLsb', BitVec.reduceAllOnes, BitVec.ofNat_eq_ofNat]
    · rw [describe_decodeWord_hsReg h, describe_decodeWord_hsReg h']
      simp only [transferHsReg, hsRegFields, masking, BitVec.reduceExtractLsb', BitVec.reduceAllOnes,
        BitVec.reduceGetLsb, BitVec.ofNat_eq_ofNat, Nat.reduceSub, Nat.reduceAdd]

end Sys2Proof.Proofs
end

section
/-! SUPPORT. The opcode table against the decoder (30_encoding.md R95 and R72): the row of the instruction a
word decodes to matches the word. -/

namespace Sys2Proof.Proofs

open Sys2Proof Sys2Proof.Machine

/-- The bits of `w` below `k` that the mask `m` has are those of `p`. -/
def AgreesOn (w m p : Word) : Nat → Prop
  | 0 => True
  | k + 1 => (m.getLsbD k = true → w.getLsbD k = p.getLsbD k) ∧ AgreesOn w m p k

theorem agreesOn_iff (w m p : Word) (k : Nat) :
    AgreesOn w m p k ↔ ∀ j < k, m.getLsbD j = true → w.getLsbD j = p.getLsbD j := by
  induction k with
  | zero => simp [AgreesOn]
  | succ k ih => rw [AgreesOn, ih, Nat.forall_lt_succ_right, and_comm]

/-- A row's pattern has no bit outside its mask. -/
theorem pattern_and_mask : ∀ r ∈ opcodeTable, r.pattern &&& r.mask = r.pattern := by decide +kernel

theorem covers_of_agrees {r : TableRow} {w : Word} (hr : r ∈ opcodeTable) (h : AgreesOn w r.mask r.pattern 32) :
    r.covers w = true := by
  rw [agreesOn_iff] at h
  refine beq_iff_eq.mpr (BitVec.eq_of_getLsbD_eq fun j hj => ?_)
  rw [← pattern_and_mask r hr, BitVec.getLsbD_and, BitVec.getLsbD_and]
  cases hm : r.mask.getLsbD j with
  | true => rw [h j hj hm]
  | false => rw [Bool.and_false, Bool.and_false]

/-- The row of `i` is of line `l` and matches `w`. -/
def HasRow (w : Word) (l : DecodeLine) (i : Instr) : Prop :=
  ∃ r, opcodeTable[i.row]? = some r ∧ r.line = l ∧ r.covers w = true

/-- As the definition says; the bits are compared with what the context says of `w` where no proof is given. -/
theorem hasRow_of_agrees {w : Word} {l : DecodeLine} {i : Instr} {r : TableRow} (hr : opcodeTable[i.row]? = some r)
    (hl : r.line = l)
    (h : AgreesOn w r.mask r.pattern 32 := by
      simp only [AgreesOn, BitVec.reduceGetLsb, BitVec.ofNat_eq_ofNat, Bool.false_eq_true, false_implies, implies_true,
        and_true, *]) :
    HasRow w l i :=
  ⟨r, hr, hl, covers_of_agrees (List.mem_of_getElem? hr) h⟩

theorem hasRow_decodeCoproc {w : Word} (h : Selects w .l4) : HasRow w .l4 (decodeCoproc w) := by
  simp only [Selects, field_eq_iff_bits, FieldBits, BitVec.reduceGetLsb, Nat.reduceSub, Nat.reduceAdd] at h
  unfold decodeCoproc
  cases h4 : bit w 4 <;> cases h20 : bit w 20 <;> exact hasRow_of_agrees rfl rfl

theorem hasRow_decodeBlock {w : Word} (h : Selects w .l6) : HasRow w .l6 (decodeBlock w) := by
  simp only [Selects, field_eq_iff_bits, FieldBits, BitVec.reduceGetLsb, Nat.reduceSub, Nat.reduceAdd] at h
  unfold decodeBlock
  split <;> exact hasRow_of_agrees rfl rfl

theorem hasRow_decodeSingleImm {w : Word} (h : Selects w .l8) (h25 : bit w 25 = false) :
    HasRow w .l8 (decodeSingleImm w) := by
  obtain ⟨h27, h26, -⟩ := h
  unfold decodeSingleImm
  split <;> exact hasRow_of_agrees rfl rfl

theorem hasRow_decodeSingleReg {w : Word} (h : Selects w .l8) (h25 : bit w 25 = true) :
    HasRow w .l8 (decodeSingleReg w) := by
  obtain ⟨h27, h26, hund⟩ := h
  have h4 : bit w 4 = false := Bool.eq_false_iff.mpr fun h4 => hund ⟨h25, h4⟩
  unfold decodeSingleReg
  split <;> exact hasRow_of_agrees rfl rfl

theorem hasRow_decodeMul {w : Word} (h : Selects w .l9a) : HasRow w .l9a (decodeMul w) := by
  simp only [Selects, field_eq_iff_bits, FieldBits, BitVec.reduceGetLsb, Nat.reduceSub, Nat.reduceAdd] at h
  unfold decodeMul
  split <;> exact hasRow_of_agrees rfl rfl

theorem hasRow_decodeMull {w : Word} (h : Selects w .l9b) : HasRow w .l9b (decodeMull w) := by
  simp only [Selects, field_eq_iff_bits, FieldBits, BitVec.reduceGetLsb, Nat.reduceSub, Nat.reduceAdd] at h
  unfold decodeMull
  split <;> exact hasRow_of_agrees rfl rfl

theorem hasRow_decodeSwp {w : Word} (h : Selects w .l9c) : HasRow w .l9c (decodeSwp w) := by
  simp only [Selects, field_eq_iff_bits, FieldBits, BitVec.reduceGetLsb, Nat.reduceSub, Nat.reduceAdd] at h
  unfold decodeSwp
  split <;> exact hasRow_of_agrees rfl rfl

theorem hasRow_decodeHsImm {w : Word} (h : Selects w .l9d) : HasRow w .l9d (decodeHsImm w) := by
  obtain ⟨htop, h22, h7, hsh, h4⟩ := h
  simp only [field_eq_iff_bits, FieldBits, BitVec.reduceGetLsb, Nat.reduceSub, Nat.reduceAdd] at htop
  unfold decodeHsImm
  obtain ⟨h6, h5, -⟩ | ⟨h6, h5, -⟩ | ⟨h6, h5, -⟩ := sh_cases hsh <;> rw [h6, h5] <;> cases h20 : bit w 20 <;>
    exact hasRow_of_agrees rfl rfl

theorem hasRow_decodeHsReg {w : Word} (h : Selects w .l9e) : HasRow w .l9e (decodeHsReg w) := by
  obtain ⟨htop, h22, h7, hsh, h4⟩ := h
  simp only [field_eq_iff_bits, FieldBits, BitVec.reduceGetLsb, Nat.reduceSub, Nat.reduceAdd] at htop
  unfold decodeHsReg
  obtain ⟨h6, h5, -⟩ | ⟨h6, h5, -⟩ | ⟨h6, h5, -⟩ := sh_cases hsh <;> rw [h6, h5] <;> cases h20 : bit w 20 <;>
    exact hasRow_of_agrees rfl rfl

theorem hasRow_dpImm {w : Word} {op : AluOp} (hop : bits w 24 21 = op.bits)
    (hs : aluWrites op = false → bit w 20 = true) (h27 : bit w 27 = false) (h26 : bit w 26 = false)
    (h25 : bit w 25 = true) (f : DpImmFields) : HasRow w .l14 (Instr.dpImm op f) := by
  rw [field_eq_iff_bits] at hop
  cases op with
  | tst | teq | cmp | cmn =>
    have h20 := hs rfl
    simp only [AluOp.bits, FieldBits, BitVec.reduceGetLsb, Nat.reduceSub, Nat.reduceAdd] at hop
    exact hasRow_of_agrees rfl rfl
  | and | eor | sub | rsb | add | adc | sbc | rsc | orr | mov | bic | mvn =>
    simp only [AluOp.bits, FieldBits, BitVec.reduceGetLsb, Nat.reduceSub, Nat.reduceAdd] at hop
    exact hasRow_of_agrees rfl rfl

theorem hasRow_dpShift {w : Word} {op : AluOp} (hop : bits w 24 21 = op.bits)
    (hs : aluWrites op = false → bit w 20 = true) (h27 : bit w 27 = false) (h26 : bit w 26 = false)
    (h25 : bit w 25 = false) (h4 : bit w 4 = false) (f : DpShiftFields) : HasRow w .l14 (Instr.dpShift op f) := by
  rw [field_eq_iff_bits] at hop
  cases op with
  | tst | teq | cmp | cmn =>
    have h20 := hs rfl
    simp only [AluOp.bits, FieldBits, BitVec.reduceGetLsb, Nat.reduceSub, Nat.reduceAdd] at hop
    exact hasRow_of_agrees rfl rfl
  | and | eor | sub | rsb | add | adc | sbc | rsc | orr | mov | bic | mvn =>
    simp only [AluOp.bits, FieldBits, BitVec.reduceGetLsb, Nat.reduceSub, Nat.reduceAdd] at hop
    exact hasRow_of_agrees rfl rfl

theorem hasRow_dpReg {w : Word} {op : AluOp} (hop : bits w 24 21 = op.bits)
    (hs : aluWrites op = false → bit w 20 = true) (h27 : bit w 27 = false) (h26 : bit w 26 = false)
    (h25 : bit w 25 = false) (h7 : bit w 7 = false) (h4 : bit w 4 = true) (f : DpRegFields) :
    HasRow w .l14 (Instr.dpReg op f) := by
  rw [field_eq_iff_bits] at hop
  cases op with
  | tst | teq | cmp | cmn =>
    have h20 := hs rfl
    simp only [AluOp.bits, FieldBits, BitVec.reduceGetLsb, Nat.reduceSub, Nat.reduceAdd] at hop
    exact hasRow_of_agrees rfl rfl
  | and | eor | sub | rsb | add | adc | sbc | rsc | orr | mov | bic | mvn =>
    simp only [AluOp.bits, FieldBits, BitVec.reduceGetLsb, Nat.reduceSub, Nat.reduceAdd] at hop
    exact hasRow_of_agrees rfl rfl

theorem hasRow_decodeDp {w : Word} (h : Selects w .l14) : HasRow w .l14 (decodeDp w) := by
  have hs := s_of_compare h
  obtain ⟨h27, h26, hmul, -⟩ := h
  have hop : bits w 24 21 = (AluOp.ofBits (bits w 24 21)).bits := (aluOp_bits_ofBits _).symm
  unfold decodeDp
  split_ifs with h25 h4
  · exact hasRow_dpImm hop hs h27 h26 h25 _
  · exact hasRow_dpShift hop hs h27 h26 (Bool.eq_false_iff.mpr h25) h4 _
  · rw [Bool.not_eq_true] at h25
    rw [Bool.not_eq_false] at h4
    have h7 : bit w 7 = false := Bool.eq_false_iff.mpr fun h7 => hmul ⟨h25, h7, h4⟩
    exact hasRow_dpReg hop hs h27 h26 h25 h7 h4 _

/-- The row of the decoded instruction matches the word and has the line that selects it. -/
theorem hasRow_decodeWord {w : Word} {l : DecodeLine} (h : Selects w l) : HasRow w l (decodeWord w) := by
  simp only [decodeWord, decodeLine_of_selects h]
  cases l with
  | l1 | l3 | l7 | l9f | l10 | l12 | l13 =>
    simp only [Selects, field_eq_iff_bits, FieldBits, BitVec.reduceGetLsb, Nat.reduceSub, Nat.reduceAdd] at h
    exact hasRow_of_agrees rfl rfl
  | l2 | l5 | l11 =>
    simp only [Selects, field_eq_iff_bits, FieldBits, BitVec.reduceGetLsb, Nat.reduceSub, Nat.reduceAdd] at h
    dsimp only
    split <;> exact hasRow_of_agrees rfl rfl
  | l4 => exact hasRow_decodeCoproc h
  | l6 => exact hasRow_decodeBlock h
  | l8 =>
    dsimp only
    split_ifs with h25
    · exact hasRow_decodeSingleReg h h25
    · exact hasRow_decodeSingleImm h (Bool.eq_false_iff.mpr h25)
  | l9a => exact hasRow_decodeMul h
  | l9b => exact hasRow_decodeMull h
  | l9c => exact hasRow_decodeSwp h
  | l9d => exact hasRow_decodeHsImm h
  | l9e => exact hasRow_decodeHsReg h
  | l14 => exact hasRow_decodeDp h

end Sys2Proof.Proofs
end

section
/-! SUPPORT. The order of the opcode table (30_encoding.md R95): no row before that of the decoded instruction matches
the word. -/

namespace Sys2Proof.Proofs

open Sys2Proof Sys2Proof.Machine

/-- The tests, as mask and value, of earlier lines of R72 that take words a row of line `l` matches. -/
def earlierTests : DecodeLine → List (Word × Word)
  | .l9f => [(0x0FC000F0, 0x00000090), (0x0F8000F0, 0x00800090), (0x0FB00FF0, 0x01000090)]
  | .l12 => [(0x02000090, 0x00000090)]
  | .l13 => [(0x0FFFFFF0, 0x012FFF10), (0x02000090, 0x00000090), (0x0FBF0FFF, 0x010F0000), (0x0FBFFFF0, 0x0129F000),
      (0x0DBFF000, 0x0128F000)]
  | _ => []

/-- R72: a word a line selects fails the tests of the earlier lines. -/
theorem earlierTests_fail {w : Word} {l : DecodeLine} (h : Selects w l) : ∀ t ∈ earlierTests l, w &&& t.1 ≠ t.2 := by
  cases l with
  | l9f | l12 | l13 =>
    simp only [Selects, undefMul_residue_iff, msrFlags_residue_iff, undefPsr_residue_iff, field_eq_iff_bits, FieldBits,
      BitVec.reduceGetLsb, Nat.reduceSub, Nat.reduceAdd, and_true, ne_eq] at h
    simp only [earlierTests, List.forall_mem_cons, and_eq_iff_bits, MaskedBits, BitVec.reduceGetLsb,
      BitVec.ofNat_eq_ofNat, if_true, if_false, Bool.false_eq_true, true_and, and_true, ne_eq]
    grind
  | _ => exact List.forall_mem_nil _

/-- The mask and value a row tests; for line 9f with SH, the bits by which lines 9d and 9e take their words. -/
def selectorOf (r : TableRow) : Word × Word :=
  if r.line = .l9f then (0x0E0000F0, 0x00000090) else (r.mask, r.pattern)

theorem selector_of_selects {w : Word} {r : TableRow} (h : Selects w r.line) (hr : r.covers w = true) :
    w &&& (selectorOf r).1 = (selectorOf r).2 := by
  unfold selectorOf
  split_ifs with hl
  · rw [hl] at h
    obtain ⟨htop, hlow, -⟩ := h
    simp only [field_eq_iff_bits, FieldBits, BitVec.reduceGetLsb, Nat.reduceSub, Nat.reduceAdd] at htop hlow
    simp only [and_eq_iff_bits, MaskedBits, BitVec.reduceGetLsb, BitVec.ofNat_eq_ofNat, if_true, if_false,
      Bool.false_eq_true, and_true, *]
  · exact beq_iff_eq.mp hr

/-- Every word the row matches passes the test `t`. -/
def rowWithin (r : TableRow) (t : Word × Word) : Bool := r.mask &&& t.1 == t.1 && r.pattern &&& t.1 == t.2

theorem test_of_within {w : Word} {r : TableRow} {t : Word × Word} (ht : rowWithin r t = true)
    (hr : r.covers w = true) : w &&& t.1 = t.2 := by
  obtain ⟨hmask, hpattern⟩ := Bool.and_eq_true_iff.mp ht
  calc
    w &&& t.1 = (w &&& r.mask) &&& t.1 := by rw [BitVec.and_assoc, beq_iff_eq.mp hmask]
    _ = r.pattern &&& t.1 := by rw [beq_iff_eq.mp hr]
    _ = t.2 := beq_iff_eq.mp hpattern

/-- Two tests one word passes agree where both masks have a bit. -/
theorem tests_meet {w m p m' p' : Word} (h : w &&& m = p) (h' : w &&& m' = p') : p &&& m' = p' &&& m := by
  rw [← h, ← h', BitVec.and_assoc, BitVec.and_assoc, BitVec.and_comm m]

/-- A row that meets a later one has only words an earlier line of R72 than that row's takes. -/
theorem earlier_rows_within : opcodeTable.Pairwise fun earlier r =>
    earlier.pattern &&& (selectorOf r).1 = (selectorOf r).2 &&& earlier.mask →
      (earlierTests r.line).any (rowWithin earlier) = true := by decide +kernel

/-- R95: the first row that matches a word is that of the decoded instruction. -/
theorem firstRow_decodeWord (w : Word) : firstRow w = some (decodeWord w).row := by
  have hsel := selects_decodeLine w
  obtain ⟨r, hr, hl, hc⟩ := hasRow_decodeWord hsel
  obtain ⟨hi, rfl⟩ := List.getElem?_eq_some_iff.mp hr
  refine List.findIdx?_eq_some_iff_getElem.mpr ⟨hi, hc, fun j hj hcj => ?_⟩
  rw [← hl] at hsel
  have hmeet := tests_meet (beq_iff_eq.mp hcj) (selector_of_selects hsel hc)
  obtain ⟨t, ht, hwithin⟩ :=
    List.any_eq_true.mp (List.pairwise_iff_getElem.mp earlier_rows_within j _ (hj.trans hi) hi hj hmeet)
  exact earlierTests_fail hsel t ht (test_of_within hwithin hcj)

/-- A word of each row of the table: its pattern, but for the residue of line 9, whose pattern is MUL's. -/
def wordOfRow (k : Nat) : Word := if k = 70 then 0x01800090 else (opcodeTable.map (·.pattern)).getD k 0

theorem firstRow_wordOfRow : ∀ k < 124, firstRow (wordOfRow k) = some k := by decide +kernel

/-- Rows of lines 9f, 12 and 13 alone have words in common with earlier rows. -/
theorem overlapping_rows : opcodeTable.Pairwise fun earlier r =>
    (∃ w : Word, earlier.covers w = true ∧ r.covers w = true) → r.line = .l9f ∨ r.line = .l12 ∨ r.line = .l13 := by
  refine earlier_rows_within.imp ?_
  rintro earlier r hwithin ⟨w, hearlier, hr⟩
  by_cases hl : r.line = .l9f
  · exact .inl hl
  · rw [selectorOf, if_neg hl] at hwithin
    have htest := hwithin (tests_meet (beq_iff_eq.mp hearlier) (beq_iff_eq.mp hr))
    revert htest
    generalize r.line = l
    cases l with
    | l9f | l12 | l13 => exact fun _ => by decide
    | _ => exact fun h => absurd h Bool.false_ne_true

/-- Settles O60: the row of the decoded instruction matches the word, and every earlier row that meets it has only words
of an earlier line of R72. -/
theorem firstMatchingRowApplies : Obligations.FirstMatchingRowApplies := by
  refine ⟨fun w => ⟨firstRow_decodeWord w, ?_⟩, rfl, fun k hk => ⟨_, firstRow_wordOfRow k hk⟩, by decide +kernel,
    by decide +kernel, overlapping_rows⟩
  obtain ⟨r, hr, hl, -⟩ := hasRow_decodeWord (selects_decodeLine w)
  exact ⟨r, hr, hl, by rw [hl, cls_decodeWord]⟩

end Sys2Proof.Proofs
end

section
/-! SUPPORT. The dispatch family (40_dispatch.md): the condition, the step around its instruction, the interrupts at the
boundary and the pipeline action an instruction ends in. -/

namespace Sys2Proof.Proofs

open Sys2Proof Sys2Proof.Machine Sys2Proof.Laws

/-! ### The condition (R101, R102) -/

/-- Settles O5: the field names a condition, and each condition's test is its line of the table. -/
theorem conditionTable : Obligations.ConditionTable := by
  intro w p
  rw [(cls_cond_decodeWord w).2, condOf]
  obtain ⟨c, hc⟩ : ∃ c : Cond, c.bits = bits w 31 28 := ⟨_, cond_bits_ofBits _⟩
  rw [← hc, cond_ofBits_bits]
  cases c with
  | eq | cs | mi | vs => exact Iff.rfl
  | ne | cc | pl | vc => exact Iff.of_eq (Bool.not_eq_true' _)
  | hi | ls | ge | lt | gt | le | al | nv => simp [conditionPassed, Cond.bits]

/-- Settles O14: the frame of every class is the same, and its advance leaves `PCF` three words after the old `IA`. -/
theorem failedConditionOnlyAdvances : Obligations.FailedConditionOnlyAdvances := by
  intro i s hc
  have hpcf : s.ia + 4 + 8 = s.ia + 12 := by bv_omega
  rw [exec_eq_handler, runHandler_failed hc, State.applyAdvance, afterRead_ia, hpcf]
  rfl

/-! ### The pipeline action of an instruction (R106) -/

/-- An instruction that flushes and ends in THUMB state is refused, with no refill (R114). -/
theorem exec_refusedAt {i : Instr} {s t : State} (h : exec i s = .next t)
    (hc : conditionPassed i.cond s.cpsr = true) (hf : (describe i).flushes = true) (ht : t.cpsr.t = true) :
    ∃ target, s.RefusedAt t target := by
  rcases exec_next h with ⟨hc', -⟩ | ⟨-, s1, h1, -⟩ | ⟨-, s1, h1, rfl⟩
  · exact absurd (hc.symm.trans hc') (by decide)
  · exact absurd (hf.symm.trans ((handler_flushes _ _).1 _ h1)) (by decide)
  · have hk := handler_keeps _ _ _ (.inr h1)
    rw [applyFlush_cpsr] at ht
    rw [applyFlush_thumb s1 ht]
    exact ⟨s1.pcf, rfl, rfl, rfl, hk.qcur, hk.qnext⟩

/-- Settles O44: the action is the one `Descriptor.flushes` says, and T as the handler left it decides how a flush
ends. -/
theorem flushExactlyWhenR15IsWritten : Obligations.FlushExactlyWhenR15IsWritten := by
  intro i s t hc h
  refine ⟨fun hf => exec_advancesTo h ?_, fun hf => ⟨exec_refilledAt h hc hf, exec_refusedAt h hc hf⟩⟩
  rintro ⟨-, hf'⟩
  exact absurd (hf'.symm.trans hf) (by decide)

/-! ### The step around its instruction (R107, R110) -/

/-- Settles O10, by the definition of a step that begins. -/
theorem stepRunsTheDecodedInstruction : Obligations.StepRunsTheDecodedInstruction := by
  rintro s i herr hrefused hstop ht hbroken rfl
  have hstep := step_begins (noStep_none.mpr ⟨herr, hrefused, hstop, ht, hbroken⟩)
  exact ⟨fun t h => by rw [hstep, h], fun f h => by rw [hstep, h], exec_not_refused _ s⟩

/-- The four bytes at an address decode to the instruction of the word there (R53, R70). -/
theorem decode_bytes_wordAt (m : Memory) (a : Word) :
    decode [m.byteAt a, m.byteAt (a + 1), m.byteAt (a + 2), m.byteAt (a + 3)] = .ok (decodeWord (m.wordAt a), []) := rfl

/-- Settles O11: at a clean launch `QCUR` is the word at `IA`, and a clean launch is not outside the spec. -/
theorem cleanLaunchRunsTheBytesAtIa : Obligations.CleanLaunchRunsTheBytesAtIa := by
  intro s i hclean hdevice hstop hdecode
  have ⟨herr, hrefused, ht, halign, _, hqcur, _⟩ := hclean
  have hi : decodeWord s.qcur = i := by
    rw [hqcur, busReadValue_word (plain_word halign hdevice)]
    rw [decode_bytes_wordAt] at hdecode
    exact congrArg Prod.fst (Except.ok.inj hdecode)
  obtain ⟨hnext, hfault, -⟩ :=
    stepRunsTheDecodedInstruction s i herr hrefused hstop ht (brokenLaunch_of_clean hclean) hi
  exact ⟨hnext, hfault⟩

/-! ### Interrupts at the boundary (R115, R303, R312) -/

/-- Every vector is word-aligned (R301). -/
theorem vector_aligned (k : ExceptionClass) : k.vector &&& 0xFFFFFFFC = k.vector := by cases k <;> rfl

/-- The refill reads memory and stores nothing. -/
theorem reads_refillReads (a : Word) : ∀ x ∈ refillReads a, Reads x := by simp [refillReads, Reads]

/-- What an exception entry and its flush leave, the status registers apart: the link in the target mode's R14, every
other register, and the two refill reads at the vector. -/
theorem enter_flush_effect (b : State) (k : ExceptionClass) (lr : Word) :
    (b.enterException k lr).applyFlush.regs.get (.lr k.mode.bank) = lr ∧
      b.KeepsRegsBut (b.enterException k lr).applyFlush [some (.lr k.mode.bank)] ∧
      b.RefilledAt (b.enterException k lr).applyFlush k.vector ∧
      b.KeepsMemory (b.enterException k lr).applyFlush (refillReads k.vector) := by
  have hrefill := enter_flush b k lr
  have ⟨_, hia, _, _, _, hbus, _⟩ := hrefill
  rw [hia, vector_aligned] at hbus
  refine ⟨?_, fun p hp => ?_, hrefill, keepsMemory_of_reads hbus (reads_refillReads _)⟩
  · rw [applyFlush_regs, enterException_regs, regs_get_set_same]
  · have hne : PhysReg.lr k.mode.bank ≠ p := fun e => hp (by simp [e])
    rw [applyFlush_regs, enterException_regs, regs_get_set, if_neg hne]

/-- The end of a step counts it and leaves the launch, the internal cycles and `ERR` alone, interrupt or not. -/
theorem endStep_keeps (s : State) :
    s.endStep.steps = s.steps + 1 ∧ s.endStep.launch = s.launch ∧ s.endStep.icycles = s.icycles ∧
      s.endStep.err = s.err := by
  rcases endStep_cases s with ⟨-, e⟩ | ⟨-, ⟨-, -, e⟩ | ⟨-, -, -, e⟩ | ⟨-, -, e⟩⟩ <;> rw [e] <;> simp

/-- Settles O13: the three ends of a step that was not refused, the first two by the one lemma on exception entry. -/
theorem interruptsAtTheBoundary : Obligations.InterruptsAtTheBoundary := by
  rintro s t b q herr hrefused hstop ht hbroken hx htr rfl rfl
  have hstep := (stepRunsTheDecodedInstruction s _ herr hrefused hstop ht hbroken rfl).1 t hx
  obtain ⟨hlaunch, hsteps, herr'⟩ := exec_run hx
  obtain ⟨ksteps, klaunch, kicycles, kerr⟩ := endStep_keeps t
  refine ⟨t.endStep, hstep, hsteps ▸ ksteps, klaunch.trans hlaunch, kicycles, kerr.trans (herr'.trans herr), ?_⟩
  rw [← hlaunch, ← hsteps]
  rcases endStep_cases t with ⟨hr, -⟩ | ⟨-, ⟨hq, hf, e⟩ | ⟨hfiq, hq, hi, e⟩ | ⟨hfiq, hirq, e⟩⟩
  · exact absurd (hr.symm.trans htr) (by decide)
  · rw [e]
    obtain ⟨hlr, hregs, hrefill, hmem⟩ := enter_flush_effect { t with steps := t.steps + 1 } .fiq (t.ia + 4)
    exact ⟨fun _ => ⟨applyFlush_cpsr _, applyFlush_spsr _, hlr, hregs, hrefill, hmem⟩,
      fun hn => absurd ⟨hq, hf⟩ hn, fun hn => absurd ⟨hq, hf⟩ hn⟩
  · rw [e]
    obtain ⟨hlr, hregs, hrefill, hmem⟩ := enter_flush_effect { t with steps := t.steps + 1 } .irq (t.ia + 4)
    exact ⟨fun h => absurd h hfiq,
      fun _ _ => ⟨applyFlush_cpsr _, applyFlush_spsr _, hlr, hregs, hrefill, hmem⟩,
      fun _ hn => absurd ⟨hq, hi⟩ hn⟩
  · rw [e]
    exact ⟨fun h => absurd h hfiq, fun _ h => absurd h hirq, fun _ _ => rfl⟩

end Sys2Proof.Proofs
end

section
/-! SUPPORT. The branch family (41_branch.md): what a flush without data accesses keeps, the target of B and BL and the
link of BL, the operand of BX, and the words the spec writes out. -/

namespace Sys2Proof.Proofs

open Sys2Proof Sys2Proof.Machine Sys2Proof.Laws

/-! ### Words of the spec's examples -/

/-- Settles O3, by running the decoder on each of the eighteen words. -/
theorem sampleWordsDecode : Obligations.SampleWordsDecode := by
  unfold Obligations.SampleWordsDecode
  decide

/-! ### A flush without data accesses (R56, R106, R114) -/

/-- An instruction that flushes and makes no data access completes in the flush of the state its handler left, keeps
memory, and charges the cycles of its descriptor. -/
theorem exec_flush_keeps {i : Instr} {s s1 : State} (hc : conditionPassed i.cond s.cpsr = true)
    (h : (describe i).handler (prefetched s) = .flush s1) (hd : s.dataAccesses (describe i) = []) :
    exec i s = .next s1.applyFlush ∧ s.KeepsMemory s1.applyFlush (s.accesses i s1.applyFlush) ∧
      s1.applyFlush.icycles = s.icycles + (describe i).internalCycles ∧ s.KeepsRun s1.applyFlush := by
  have hnext := exec_flush hc h
  refine ⟨hnext, exec_keepsMemory hnext (by simp [hd]), ?_, exec_run hnext⟩
  rw [applyFlush_icycles]
  exact handler_cycles (describe i) (prefetched s) s1 (.inr h)

/-! ### Addresses -/

/-- A word-aligned address has bit 0 clear, and neither the flush's mask (R114) nor that of BL and BX (R121, R123) alters
it. -/
theorem masks_of_aligned {a : Word} (h : a.extractLsb 1 0 = 0) :
    a.getLsbD 0 = false ∧ a &&& 0xFFFFFFFC = a ∧ a &&& 0xFFFFFFFE = a := by
  obtain ⟨h1, h0, -⟩ := (field_eq_iff_bits a 1 0 0).mp h
  exact ⟨h0, by simpa [and_eq_iff_bits, MaskedBits] using ⟨h1, h0⟩, by simpa [and_eq_iff_bits, MaskedBits] using h0⟩

/-- The branch offset is four times the signed field (R77). -/
theorem branchOffset_eq (imm24 : BitVec 24) : branchOffset imm24 = imm24.signExtend 32 * 4 := by
  rw [branchOffset, BitVec.shiftLeft_eq_mul_twoPow]
  rfl

/-- From an aligned `IA` a branch's target is aligned (R120). -/
theorem branchTarget_aligned {a : Word} (h : a.extractLsb 1 0 = 0) (offset : Word) :
    (a + 8 + offset * 4).extractLsb 1 0 = 0 := by
  rw [BitVec.mul_comm]
  exact (low_bits_four_mul (low_bits_add8 h) offset).1

/-! ### B and BL (R120, R121) -/

/-- The link BL writes before its target, into the current mode's R14; none for B. -/
def withLink (link : Bool) (s : State) : State :=
  if link = true then s.writeReg 14 ((s.ia + 4) &&& 0xFFFFFFFE) else s

/-- The link write leaves `PCF`, so the target does not depend on it (R121), and the status registers. -/
theorem withLink_keeps (link : Bool) (s : State) :
    (withLink link s).pcf = s.pcf ∧ (withLink link s).cpsr = s.cpsr ∧ (withLink link s).spsr = s.spsr := by
  cases link with
  | false => exact ⟨rfl, rfl, rfl⟩
  | true => exact ⟨writeReg_pcf (i := 14) (by decide) _, writeReg_cpsr s 14 _, writeReg_spsr s 14 _⟩

/-- The prefetch does not matter to the link. -/
theorem withLink_prefetched_regs (link : Bool) (s : State) :
    (withLink link (prefetched s)).regs = (withLink link s).regs := by
  cases link <;> rfl

/-- The branch handler: the link, then `PCF` at the target. -/
theorem handler_branch (link : Bool) (imm24 : BitVec 24) (s : State) :
    (Descriptor.branch link imm24).handler s =
      .flush { withLink link s with pcf := s.pcf + imm24.signExtend 32 * 4 } := by
  have ⟨hpcf, _⟩ := withLink_keeps link s
  show HandlerResult.flush ((withLink link s).writeReg 15#4 ((withLink link s).pcf + branchOffset imm24)) = _
  rw [writeReg_15, hpcf, branchOffset_eq]

/-- What B and BL do, the registers being those the link leaves. -/
theorem exec_branch {i : Instr} {link : Bool} {imm24 : BitVec 24} {s : State} (hd : describe i = .branch link imm24)
    (hc : conditionPassed i.cond s.cpsr = true) (hx : s.Executing) :
    ∃ t, exec i s = .next t ∧ (s.beforeRefill i).RefilledAt t (s.ia + 8 + imm24.signExtend 32 * 4) ∧
      (s.ia.extractLsb 1 0 = 0 → t.ia = s.ia + 8 + imm24.signExtend 32 * 4) ∧
      t.regs = (withLink link s).regs ∧ t.cpsr = s.cpsr ∧ t.spsr = s.spsr ∧ s.KeepsMemory t (s.accesses i t) ∧
      t.icycles = s.icycles ∧ s.KeepsRun t := by
  obtain ⟨hpcf, harm⟩ := hx
  obtain ⟨-, hcpsr, hspsr⟩ := withLink_keeps link (prefetched s)
  have hflush := handler_branch link imm24 (prefetched s)
  rw [← hd, afterRead_pcf, hpcf] at hflush
  obtain ⟨hnext, hmem, hcycles, hrun⟩ := exec_flush_keeps hc hflush (by rw [hd]; rfl)
  have hrefill := flush_refilledAt hc hflush (hcpsr ▸ harm)
  have ⟨_, hia, _⟩ := hrefill
  refine ⟨_, hnext, hrefill, fun ha => ?_, ?_, ?_, ?_, hmem, ?_, hrun⟩
  · obtain ⟨-, hmask, -⟩ := masks_of_aligned (branchTarget_aligned ha (imm24.signExtend 32))
    exact hia.trans hmask
  · rw [applyFlush_regs, withLink_prefetched_regs]
  · exact (applyFlush_cpsr _).trans hcpsr
  · exact (applyFlush_spsr _).trans hspsr
  · rw [hcycles, hd]; rfl

/-- Settles O21: a branch without a link. -/
theorem branchResult : Obligations.BranchResult := fun f _ => exec_branch (i := .b f) rfl

/-- Settles O22: a branch with the link, which is the one register written. -/
theorem branchLinkResult : Obligations.BranchLinkResult := by
  intro f s hc hx
  obtain ⟨t, hnext, hrefill, hia, hregs, hcpsr, hspsr, hmem, hcycles, hrun⟩ := exec_branch (i := .bl f) rfl hc hx
  have hlink : t.readReg 14 = (s.ia + 4) &&& 0xFFFFFFFE := by
    rw [readReg_of_bank (i := 14) (bank_14 _), hregs, hcpsr]
    exact (writeReg_get s 14 _ _).trans (if_pos rfl)
  have hkeeps : s.KeepsRegsBut t [bank s.cpsr.mode 14] := by
    intro p hp
    rw [hregs]
    exact (writeReg_get s 14 _ p).trans (if_neg fun hb => hp (List.mem_singleton.mpr hb.symm))
  refine ⟨t, hnext, hlink, hrefill, fun ha => ?_, hkeeps, hcpsr, hspsr, hmem, hcycles, hrun⟩
  obtain ⟨-, -, hmask⟩ := masks_of_aligned (low_bits_add4 ha)
  exact ⟨hlink.trans hmask, hia ha⟩

/-! ### BX (R123) -/

/-- What BX leaves for its flush: bit 0 of the operand `v` in T, and `PCF` at `v` with bit 0 clear. -/
def exchangeTo (v : Word) (s : State) : State :=
  { s with cpsr := { s.cpsr with t := v.getLsbD 0 }, pcf := v &&& 0xFFFFFFFE }

theorem handler_branchExchange (rn : RegIx) (s : State) :
    (Descriptor.branchExchange rn).handler s = .flush (exchangeTo (s.readReg rn) s) :=
  congrArg HandlerResult.flush (writeReg_15 _ _)

/-- Settles O23: bit 0 of the operand decides how the flush ends, and R15, aligned, reads with that bit clear. -/
theorem branchExchangeResult : Obligations.BranchExchangeResult := by
  intro f s hc hx
  obtain ⟨hpcf, harm⟩ := hx
  have hflush : (describe (.bx f)).handler (prefetched s) = .flush (exchangeTo (s.readReg f.rn) (prefetched s)) :=
    handler_branchExchange f.rn (prefetched s)
  obtain ⟨hnext, hmem, hcycles, hrun⟩ := exec_flush_keeps (i := .bx f) hc hflush rfl
  have hcpsr := applyFlush_cpsr (exchangeTo (s.readReg f.rn) (prefetched s))
  have hrefill := flush_refilledAt (i := .bx f) hc hflush
  refine ⟨_, hnext, hcpsr, hrefill, fun h1 => ?_, fun hrn ha => ?_, applyFlush_regs _, applyFlush_spsr _, hmem, hcycles,
    hrun⟩
  · rw [applyFlush_thumb _ h1]
    exact ⟨rfl, rfl, rfl, rfl, rfl⟩
  · have hv : s.readReg f.rn = s.ia + 8 := hrn ▸ (readReg_15 s).trans hpcf
    obtain ⟨h0, -, htarget⟩ := masks_of_aligned (hv ▸ low_bits_add8 ha)
    refine ⟨hcpsr.trans ?_, (htarget.trans hv) ▸ hrefill h0⟩
    rw [exchangeTo, h0, ← harm]
    rfl

end Sys2Proof.Proofs
end

section
/-! SUPPORT. SWI and MSR (42_swi_msr.md): the flush of SWI is that of an exception entry, an MSR advances with one status
register changed, and the misuses of MSR are those of R318's table. -/

namespace Sys2Proof.Proofs

open Sys2Proof Sys2Proof.Machine Sys2Proof.Laws

/-! ### SWI (R140, R303, R305) -/

/-- Settles O24: the handler is the exception entry for SWI, and its flush refills at the vector. -/
theorem softwareInterruptResult : Obligations.SoftwareInterruptResult := by
  intro f s hc
  have hflush : (describe (.swi f)).handler (prefetched s) = .flush ((prefetched s).enterException .swi (s.ia + 4)) := rfl
  obtain ⟨hnext, hmem, hcycles, hrun⟩ := exec_flush_keeps (i := .swi f) hc hflush rfl
  obtain ⟨hlr, hregs, -, -⟩ := enter_flush_effect (prefetched s) .swi (s.ia + 4)
  exact ⟨_, hnext, flush_refilledAt (i := .swi f) hc hflush rfl, applyFlush_cpsr _, applyFlush_spsr _, hlr, hregs, hmem,
    hcycles, hrun⟩

/-! ### An advance without data accesses (R56, R106, R112) -/

/-- An instruction that advances and makes no data access completes one instruction on, with the registers and status its
handler left; it keeps memory, and charges the cycles of its descriptor. -/
theorem exec_advance_keeps {i : Instr} {s s1 : State} (hc : conditionPassed i.cond s.cpsr = true)
    (h : (describe i).handler (prefetched s) = .advance s1) (hd : s.dataAccesses (describe i) = []) :
    ∃ t, exec i s = .next t ∧ s.AdvancesTo t ∧ t.cpsr = s1.cpsr ∧ t.spsr = s1.spsr ∧ t.regs = s1.regs ∧
      s.KeepsMemory t (s.accesses i t) ∧ t.icycles = s.icycles + (describe i).internalCycles ∧ s.KeepsRun t := by
  have hnext := exec_advance hc h
  have hk := handler_keeps _ _ _ (.inl h)
  exact ⟨_, hnext, advancesTo_applyAdvance hk.ia hk.qnext hk.refused, rfl, rfl, rfl,
    exec_keepsMemory hnext (by simp [hd]), handler_cycles _ (prefetched s) s1 (.inl h), exec_run hnext⟩

/-- An instruction that raises the error of R318's table leaves the state as it was after the prefetch, but for `ERR`. -/
theorem exec_errorOf {i : Instr} {s : State} {k : ErrorKind} (hc : conditionPassed i.cond s.cpsr = true)
    (h : s.errorOf (describe i) = some k) :
    ∃ e, e = { kind := k, ia := s.ia, raw := s.qcur, cls := i.cls } ∧
      exec i s = .fault (.raised e { s.afterRead .word (s.ia + 8) with err := some e }) :=
  ⟨_, rfl, exec_error hc ((handler_error _ _ _).mpr ((errorOf_prefetched s _).trans h))⟩

/-! ### MSR to the SPSR (R144) -/

/-- In a mode with a slot the MSR handler writes it and nothing else. -/
theorem handler_msrSpsr {s : State} (rm : RegIx) (h : s.cpsr.mode ≠ .usr ∧ s.cpsr.mode ≠ .sys) :
    (Descriptor.msr true rm).handler s = .advance { s with spsr := s.spsr.set s.cpsr.mode (s.readReg rm) } := by
  obtain ⟨v, hv⟩ : ∃ v, s.spsrCur = some v := by
    rw [← Option.ne_none_iff_exists', State.spsrCur, ne_eq, spsrs_get_eq_none_iff, not_or]
    exact h
  simp only [Descriptor.handler, msrSpsrHandler, hv]

/-- Settles O26: the slot is written in a mode that has one, and the misuse is R318's. -/
theorem msrSpsrResult : Obligations.MsrSpsrResult := by
  intro f s hc
  constructor
  · intro hm
    obtain ⟨t, hnext, hadvance, hcpsr, hspsr, hregs, hmem, hcycles, hrun⟩ :=
      exec_advance_keeps (i := .msrSpsr f) hc (handler_msrSpsr f.rm hm) rfl
    refine ⟨t, hnext, hadvance, ?_, fun m hne => ?_, hcpsr, hregs, hmem, hcycles, hrun⟩
    · rw [State.spsrCur, hspsr, hcpsr]
      exact spsrs_get_set_same s.spsr _ hm
    · rw [hspsr]
      exact spsrs_get_set_other s.spsr _ hne.symm
  · intro hm
    obtain ⟨e, he, hfault⟩ := exec_errorOf (i := .msrSpsr f) (k := .fatalMisuse) hc (if_pos hm)
    exact ⟨e, _, hfault, he, rfl, rfl, rfl, rfl, rfl, rfl⟩

/-! ### MSR to the CPSR (R142, R145) -/

/-- Writing the flags of an image changes bits 31:28, to those of the image, and no other. -/
theorem psr_withFlagsOf_toWord (p : Psr) (v : Word) :
    bits (p.withFlagsOf v).toWord 31 28 = bits v 31 28 ∧ bits (p.withFlagsOf v).toWord 27 0 = bits p.toWord 27 0 := by
  constructor
  · obtain ⟨hn, hz, hc, hv, -⟩ := psr_toWord_fields (p.withFlagsOf v)
    exact (field_eq_iff_bits _ 31 28 _).mpr (by simpa [FieldBits, Psr.withFlagsOf] using ⟨hn, hz, hc, hv⟩)
  · apply BitVec.eq_of_getLsbD_eq
    intro k hk
    have hlow : 0 + k - 8 < 20 := by omega
    simp only [BitVec.getLsbD_extractLsb, psr_toWord_getLsbD, if_pos hlow]
    rfl

/-- Under `MSR_USER_RESTRICT` in usr the MSR handler writes the flags and nothing else. -/
theorem handler_msrCpsr_restricted {s : State} (rm : RegIx)
    (h : s.launch.msrUserRestrict = true ∧ s.cpsr.mode = .usr) :
    (Descriptor.msr false rm).handler s = .advance { s with cpsr := s.cpsr.withFlagsOf (s.readReg rm) } := if_pos h

/-- Otherwise it writes the whole image, where that names a mode. -/
theorem handler_msrCpsr {s : State} {rm : RegIx} {p : Psr} (h : ¬(s.launch.msrUserRestrict = true ∧ s.cpsr.mode = .usr))
    (hp : Psr.ofWord (s.readReg rm) = some p) : (Descriptor.msr false rm).handler s = .advance { s with cpsr := p } := by
  simp only [Descriptor.handler, msrCpsrHandler, if_neg h, hp]

/-- Settles O27: the flags where the switch restricts, else the whole image, or the misuse of R318. -/
theorem msrCpsrResult : Obligations.MsrCpsrResult := by
  refine ⟨rfl, fun f s hc => ⟨fun hr => ?_, fun hr hm => ?_, fun hr hm => ?_⟩⟩
  · obtain ⟨t, hnext, hadvance, hcpsr, hspsr, hregs, hmem, hcycles, hrun⟩ :=
      exec_advance_keeps (i := .msrCpsr f) hc (handler_msrCpsr_restricted f.rm hr) rfl
    obtain ⟨hflags, hrest⟩ := psr_withFlagsOf_toWord s.cpsr (s.readReg f.rm)
    exact ⟨t, hnext, hadvance, hcpsr ▸ hflags, hcpsr ▸ hrest, hregs, hspsr, hmem, hcycles, hrun⟩
  · obtain ⟨p, hp⟩ := (psr_ofWord_isSome_iff _).mpr (Option.ne_none_iff_exists'.mp hm)
    obtain ⟨t, hnext, hadvance, hcpsr, hspsr, hregs, hmem, hcycles, hrun⟩ :=
      exec_advance_keeps (i := .msrCpsr f) hc (handler_msrCpsr hr hp) rfl
    exact ⟨t, hnext, hadvance, hcpsr ▸ psr_toWord_of_ofWord hp, hregs, hspsr, hmem, hcycles, hrun⟩
  · have hfree : ¬s.msrRestricted = true := by simpa [State.msrRestricted] using hr
    obtain ⟨e, he, hfault⟩ :=
      exec_errorOf (i := .msrCpsr f) (k := .fatalMisuse) hc ((if_neg hfree).trans (if_pos hm))
    exact ⟨e, _, hfault, he, rfl, rfl, rfl, rfl, rfl, rfl⟩

end Sys2Proof.Proofs
end

section
/-! SUPPORT. The barrel shifter (43_data_processing.md R160 to R163): each shift by an amount other than zero is one shift of
the library and one bit of the operand, and the library's shifts as arithmetic or bit by bit. -/

namespace Sys2Proof.Proofs

open Sys2Proof Sys2Proof.Machine Sys2Proof.Laws

/-! ### The shifts of a word -/

theorem shiftLeft_toNat (m : Word) (k : Nat) : (m <<< k).toNat = m.toNat * 2 ^ k % 2 ^ 32 := by
  rw [BitVec.toNat_shiftLeft, Nat.shiftLeft_eq]

theorem shiftRight_toNat (m : Word) (k : Nat) : (m >>> k).toNat = m.toNat / 2 ^ k := by
  rw [BitVec.toNat_ushiftRight, Nat.shiftRight_eq_div_pow]

theorem sshiftRight_toInt (m : Word) (k : Nat) : (m.sshiftRight k).toInt = m.toInt / 2 ^ k := by
  rw [BitVec.toInt_sshiftRight, Int.shiftRight_eq_div_pow]
  norm_cast

theorem rotateRight_getLsbD (m : Word) (k : Nat) {j : Nat} (hj : j < 32) :
    (m.rotateRight k).getLsbD j = m.getLsbD ((j + k) % 32) := by
  rw [BitVec.getLsbD_rotateRight]
  by_cases h : j < 32 - k % 32
  · rw [decide_eq_true h, cond_true]
    congr 1
    omega
  · rw [decide_eq_false h, cond_false, decide_eq_true hj, Bool.true_and]
    congr 1
    omega

/-- An arithmetic right shift by 32 or more leaves the sign alone (R160, R161). -/
theorem signFill_eq_sshiftRight (m : Word) {k : Nat} (hk : 32 ≤ k) : signFill m = m.sshiftRight k := by
  have hmsb : m.msb = m.getLsbD 31 := BitVec.msb_eq_getLsbD_last m
  cases hsign : m.getLsbD 31 with
  | false =>
    rw [BitVec.sshiftRight_eq_of_msb_false (hmsb.trans hsign), BitVec.ushiftRight_eq_zero hk, signFill, hsign]
    rfl
  | true =>
    rw [BitVec.sshiftRight_eq_of_msb_true (hmsb.trans hsign), BitVec.ushiftRight_eq_zero hk, signFill, hsign]
    rfl

/-! ### Immediate amounts (R160) -/

/-- The amount an immediate shift encodes, LSL #0 and RRX apart: 32 for 0 (R160). -/
def immAmount (n : BitVec 5) : Nat := if n = 0 then 32 else n.toNat

theorem immAmount_zero : immAmount 0 = 32 := rfl

theorem immAmount_of_ne {n : BitVec 5} (h : n ≠ 0) : immAmount n = n.toNat := if_neg h

theorem toNat_ne_zero {w : Nat} {n : BitVec w} (h : n ≠ 0) : n.toNat ≠ 0 := by
  simpa using BitVec.toNat_ne_iff_ne.mpr h

theorem shiftImm_lsl_zero (m : Word) (cin : Bool) : shiftImm .lsl 0 m cin = { value := m, carry := cin } := rfl

theorem shiftImm_lsl {n : BitVec 5} (h : n ≠ 0) (m : Word) (cin : Bool) :
    shiftImm .lsl n m cin = { value := m <<< n.toNat, carry := m.getLsbD (32 - n.toNat) } := if_neg (toNat_ne_zero h)

theorem shiftImm_lsr (n : BitVec 5) (m : Word) (cin : Bool) :
    shiftImm .lsr n m cin = { value := m >>> immAmount n, carry := m.getLsbD (immAmount n - 1) } := by
  by_cases h : n = 0
  · subst h
    rw [immAmount_zero, BitVec.ushiftRight_eq_zero (Nat.le_refl 32)]
    rfl
  · rw [immAmount_of_ne h]
    exact if_neg (toNat_ne_zero h)

theorem shiftImm_asr (n : BitVec 5) (m : Word) (cin : Bool) :
    shiftImm .asr n m cin = { value := m.sshiftRight (immAmount n), carry := m.getLsbD (immAmount n - 1) } := by
  by_cases h : n = 0
  · subst h
    rw [immAmount_zero, ← signFill_eq_sshiftRight m (Nat.le_refl 32)]
    rfl
  · rw [immAmount_of_ne h]
    exact if_neg (toNat_ne_zero h)

theorem shiftImm_ror {n : BitVec 5} (h : n ≠ 0) (m : Word) (cin : Bool) :
    shiftImm .ror n m cin = { value := m.rotateRight n.toNat, carry := m.getLsbD (n.toNat - 1) } :=
  if_neg (toNat_ne_zero h)

/-- RRX: the carry-in above the upper 31 bits, and bit 0 out. -/
theorem shiftImm_rrx (m : Word) (cin : Bool) :
    (∀ j < 31, (shiftImm .ror 0 m cin).value.getLsbD j = m.getLsbD (j + 1)) ∧
      (shiftImm .ror 0 m cin).value.getLsbD 31 = cin ∧ (shiftImm .ror 0 m cin).carry = m.getLsbD 0 := by
  have hvalue : (shiftImm .ror 0 m cin).value = (BitVec.ofBool cin ++ (0 : BitVec 31)) ||| (m >>> 1) := rfl
  refine ⟨fun j hj => ?_, ?_, rfl⟩
  · rw [hvalue, BitVec.getLsbD_or, BitVec.getLsbD_append, if_pos hj, BitVec.getLsbD_ushiftRight, Nat.add_comm]
    simp
  · rw [hvalue, BitVec.getLsbD_or, BitVec.getLsbD_append, BitVec.getLsbD_ushiftRight]
    simp

/-- Settles O32, type by type: amount 0 is LSL #0, LSR #32, ASR #32 or RRX. -/
theorem immediateShifts : Obligations.ImmediateShifts := by
  refine ⟨fun _ _ _ _ => rfl, fun n m cin k hk => ?_⟩
  obtain rfl : k = immAmount n := hk
  refine ⟨fun h0 => h0 ▸ shiftImm_lsl_zero m cin, fun h => ?_, ?_, ?_, ?_, ?_, fun h0 => h0 ▸ shiftImm_rrx m cin,
    fun h => ?_⟩
  · rw [shiftImm_lsl h, immAmount_of_ne h]
    exact ⟨shiftLeft_toNat m _, rfl⟩
  · rw [shiftImm_lsr]
    exact shiftRight_toNat m _
  · rw [shiftImm_lsr]
  · rw [shiftImm_asr]
    exact sshiftRight_toInt m _
  · rw [shiftImm_asr]
  · rw [shiftImm_ror h, immAmount_of_ne h]
    exact ⟨fun j hj => rotateRight_getLsbD m _ hj, rfl⟩

/-! ### Register amounts (R161) -/

theorem shiftReg_zero (type : ShiftType) (m : Word) (cin : Bool) :
    shiftReg type 0 m cin = { value := m, carry := cin } := rfl

section
variable {n : BitVec 8} (h : n ≠ 0) (m : Word) (cin : Bool)
include h

theorem shiftReg_lsl :
    shiftReg .lsl n m cin =
      { value := m <<< n.toNat, carry := decide (n.toNat ≤ 32) && m.getLsbD (32 - n.toNat) } := by
  simp only [shiftReg, if_neg (toNat_ne_zero h)]
  rcases Nat.lt_trichotomy n.toNat 32 with hlt | heq | hgt
  · simp [if_pos hlt, hlt.le]
  · simp [heq]
  · simp [Nat.not_lt.mpr hgt.le, hgt.ne', Nat.not_le.mpr hgt, BitVec.shiftLeft_eq_zero hgt.le]

theorem shiftReg_lsr :
    shiftReg .lsr n m cin =
      { value := m >>> n.toNat, carry := decide (n.toNat ≤ 32) && m.getLsbD (n.toNat - 1) } := by
  simp only [shiftReg, if_neg (toNat_ne_zero h)]
  rcases Nat.lt_trichotomy n.toNat 32 with hlt | heq | hgt
  · simp [if_pos hlt, hlt.le]
  · simp [heq, BitVec.ushiftRight_eq_zero]
  · simp [Nat.not_lt.mpr hgt.le, hgt.ne', Nat.not_le.mpr hgt, BitVec.ushiftRight_eq_zero hgt.le]

theorem shiftReg_asr :
    shiftReg .asr n m cin =
      { value := m.sshiftRight n.toNat, carry := m.getLsbD (min n.toNat 32 - 1) } := by
  simp only [shiftReg, if_neg (toNat_ne_zero h)]
  by_cases hlt : n.toNat < 32
  · rw [if_pos hlt, Nat.min_eq_left hlt.le]
  · have hge := Nat.not_lt.mp hlt
    rw [if_neg hlt, Nat.min_eq_right hge, signFill_eq_sshiftRight m hge]

/-- The rotation is by the amount modulo 32, and by a multiple of 32 carries out bit 31. -/
theorem shiftReg_ror :
    shiftReg .ror n m cin = { value := m.rotateRight n.toNat, carry := m.getLsbD ((n.toNat - 1) % 32) } := by
  have hpos := toNat_ne_zero h
  have hmod : (n.extractLsb 4 0).toNat = n.toNat % 32 := by simp [BitVec.extractLsb, BitVec.extractLsb'_toNat]
  simp only [shiftReg, if_neg hpos, hmod]
  by_cases h0 : n.toNat % 32 = 0
  · have hbit : (n.toNat - 1) % 32 = 31 := by omega
    have hround : m.rotateRight n.toNat = m := by
      apply BitVec.eq_of_getLsbD_eq
      intro j hj
      rw [rotateRight_getLsbD m _ hj, show (j + n.toNat) % 32 = j by omega]
    rw [if_pos h0, hbit, hround]
  · have hbit : (n.toNat - 1) % 32 = n.toNat % 32 - 1 := by omega
    rw [if_neg h0, hbit, BitVec.rotateRight_mod_eq_rotateRight]

end

/-- Settles O33, type by type. -/
theorem registerShifts : Obligations.RegisterShifts := by
  refine ⟨fun _ _ _ _ => rfl, fun n m cin => ⟨fun h0 type => h0 ▸ shiftReg_zero type m cin, fun h => ?_⟩⟩
  rw [shiftReg_lsl h, shiftReg_lsr h, shiftReg_asr h, shiftReg_ror h]
  exact ⟨shiftLeft_toNat m _, rfl, shiftRight_toNat m _, rfl, sshiftRight_toInt m _, rfl,
    fun j hj => rotateRight_getLsbD m _ hj, rfl⟩

/-! ### Rotated immediates (R163) -/

theorem immOperand_getLsbD (rot : BitVec 4) (imm8 : BitVec 8) (cin : Bool) {j : Nat} (hj : j < 32) :
    (immOperand rot imm8 cin).value.getLsbD j = imm8.getLsbD ((j + 2 * rot.toNat) % 32) := by
  have hvalue : (immOperand rot imm8 cin).value = (imm8.setWidth 32).rotateRight (2 * rot.toNat) := rfl
  rw [hvalue, rotateRight_getLsbD _ _ hj, BitVec.getLsbD_setWidth, decide_eq_true (Nat.mod_lt _ (by decide)),
    Bool.true_and]

/-- Settles O34: the value is a rotation, and its bit 31 the carry. -/
theorem rotatedImmediates : Obligations.RotatedImmediates := by
  refine ⟨fun _ _ _ => rfl, fun rot imm8 cin => ⟨fun j => immOperand_getLsbD rot imm8 cin, ?_⟩⟩
  rw [← immOperand_getLsbD rot imm8 cin (by decide : 31 < 32)]
  rfl

end Sys2Proof.Proofs
end

section
/-! SUPPORT. Data processing (43_data_processing.md R171 to R191): what the handler computes and leaves, said once for the
three ways it ends (a write of a register, a write of R15, none), and the CPSR of the two rules R172 and R173. -/

namespace Sys2Proof.Proofs

open Sys2Proof Sys2Proof.Machine Sys2Proof.Laws

/-- R72: the instructions of the descriptor are those of class DP, and a comparison has S = 1. -/
theorem cls_of_dataProcessing {i : Instr} {op : AluOp} {f : Bool} {rn rd : RegIx} {o : Operand2}
    (hd : describe i = .dataProcessing op f rn rd o) : i.cls = .dp ∧ (aluWrites op = false → f = true) := by
  cases i <;> cases hd <;> simp [Instr.cls, aluWrites]

/-! ### The result and the flags (R164, R165, R172) -/

/-- The result of operand 1 and operand 2, both read from `s` (R174). -/
def dpResult (op : AluOp) (rn : RegIx) (o : Operand2) (s : State) : AluResult :=
  alu op (s.readReg rn) (o.eval s).value (o.eval s).carry s.cpsr

/-- The prefetch does not matter to the result. -/
theorem dpResult_prefetched (op : AluOp) (rn : RegIx) (o : Operand2) (s : State) :
    dpResult op rn o (prefetched s) = dpResult op rn o s := by
  rw [dpResult, operand2_prefetched]
  rfl

theorem dpResult_value (op : AluOp) (rn : RegIx) (o : Operand2) (s : State) :
    (dpResult op rn o s).value = op.result (s.readReg rn) (o.eval s).value s.cpsr.c := alu_value ..

/-- The flags of the result, as arithmetic says. -/
theorem setFlags_dpResult (op : AluOp) (rn : RegIx) (o : Operand2) (s : State) :
    setFlags (dpResult op rn o s) s.cpsr =
      { s.cpsr with
        n := (op.result (s.readReg rn) (o.eval s).value s.cpsr.c).getLsbD 31
        z := op.result (s.readReg rn) (o.eval s).value s.cpsr.c == 0
        c := op.carry (s.readReg rn) (o.eval s).value s.cpsr.c (o.eval s).carry
        v := op.overflow (s.readReg rn) (o.eval s).value s.cpsr.c s.cpsr.v } := by
  rw [dpResult, setFlags, alu_value, alu_carry, alu_overflow]

/-! ### The update of the CPSR (R172, R173) -/

/-- The update of an instruction that copies no SPSR. -/
def flagsIf (f : Bool) : StatusUpdate := if f = true then .flags else .keep

/-- At most the flags change, so the mode and T stay. -/
theorem flagsIf_keeps (f : Bool) (r : AluResult) (p : Psr) :
    ((flagsIf f).apply r p).mode = p.mode ∧ ((flagsIf f).apply r p).t = p.t := by
  cases f <;> exact ⟨rfl, rfl⟩

/-- Without the copy of R173 the flags are set when S = 1. -/
theorem statusUpdate_flagsIf {op : AluOp} {f : Bool} {rd : RegIx} {s : State}
    (h : f = true → ¬(s.launch.dpPcSRestoresSpsr = true ∧ rd = 15 ∧ aluWrites op = true)) :
    statusUpdate op f rd s = some (flagsIf f) := by
  cases f with
  | false => rfl
  | true => exact if_neg (h rfl)

/-- With the copy of R173 the whole CPSR is the saved one. -/
theorem statusUpdate_restore {op : AluOp} {s : State} {p : Psr} (hw : aluWrites op = true)
    (hswitch : s.launch.dpPcSRestoresSpsr = true) (hp : s.returnStatus = some p) :
    statusUpdate op true 15 s = some (.restore p) := by
  simp [statusUpdate, hswitch, hw, hp]

/-! ### The handler (R174, R175) -/

/-- Counting the cycle of a register shift (R162) changes no register and neither status register. -/
theorem charge_keeps (o : Operand2) (s : State) :
    (o.charge s).regs = s.regs ∧ (o.charge s).cpsr = s.cpsr ∧ (o.charge s).spsr = s.spsr := by
  cases o <;> exact ⟨rfl, rfl, rfl⟩

/-- What the handler leaves before the CPSR's update: Rd takes the result of an opcode that writes one. -/
def dpWritten (op : AluOp) (rn rd : RegIx) (o : Operand2) (s : State) : State :=
  if aluWrites op = true then (o.charge s).writeReg rd (dpResult op rn o s).value else o.charge s

theorem dpWritten_cpsr (op : AluOp) (rn rd : RegIx) (o : Operand2) (s : State) :
    (dpWritten op rn rd o s).cpsr = s.cpsr := by
  obtain ⟨-, hcharge, -⟩ := charge_keeps o s
  unfold dpWritten
  split
  · rw [writeReg_cpsr, hcharge]
  · exact hcharge

section
variable {op : AluOp} {f : Bool} {rn rd : RegIx} {o : Operand2} {s : State} {u : StatusUpdate}

/-- The handler, when it raises no misuse. -/
theorem handler_dataProcessing (hu : statusUpdate op f rd s = some u) :
    (Descriptor.dataProcessing op f rn rd o).handler s =
      HandlerResult.flushIf (aluWrites op && rd == 15)
        { dpWritten op rn rd o s with cpsr := u.apply (dpResult op rn o s) s.cpsr } := by
  rw [Descriptor.handler, dataProcessing, hu]
  show HandlerResult.flushIf _
    { dpWritten op rn rd o s with cpsr := u.apply (dpResult op rn o s) (dpWritten op rn rd o s).cpsr } = _
  rw [dpWritten_cpsr]

/-- A comparison writes the CPSR only, and advances. -/
theorem handler_compare (hu : statusUpdate op f rd s = some u) (hw : aluWrites op = false) :
    (Descriptor.dataProcessing op f rn rd o).handler s =
      .advance { o.charge s with cpsr := u.apply (dpResult op rn o s) s.cpsr } := by
  rw [handler_dataProcessing hu, dpWritten, hw]
  rfl

/-- A result for a register other than R15 goes there, and the instruction advances. -/
theorem handler_writesReg (hu : statusUpdate op f rd s = some u) (hw : aluWrites op = true) (hrd : rd ≠ 15) :
    (Descriptor.dataProcessing op f rn rd o).handler s =
      .advance { (o.charge s).writeReg rd (dpResult op rn o s).value with
        cpsr := u.apply (dpResult op rn o s) s.cpsr } := by
  rw [handler_dataProcessing hu, dpWritten, hw, beq_eq_false_iff_ne.mpr hrd]
  rfl

/-- A result for R15 goes to `PCF`, and the instruction flushes. -/
theorem handler_writesPc (hu : statusUpdate op f 15 s = some u) (hw : aluWrites op = true) :
    (Descriptor.dataProcessing op f rn 15 o).handler s =
      .flush { o.charge s with
        pcf := (dpResult op rn o s).value, cpsr := u.apply (dpResult op rn o s) s.cpsr } := by
  rw [handler_dataProcessing hu, dpWritten, hw]
  rfl

end

/-! ### A result in a register, and a comparison -/

/-- Settles O28: the register of the current mode takes the result, and the flags are the result's. -/
theorem dataProcessingResult : Obligations.DataProcessingResult := by
  intro i s op f rn rd o hd hw hrd hc
  have hu : statusUpdate op f rd (prefetched s) = some (flagsIf f) :=
    statusUpdate_flagsIf fun _ ⟨_, h15, _⟩ => hrd h15
  have hhandler := handler_writesReg (rn := rn) (o := o) hu hw hrd
  rw [← hd, dpResult_prefetched] at hhandler
  obtain ⟨t, hnext, hadvance, hcpsr, hspsr, hregs, hmem, hcycles, hrun⟩ := exec_advance_keeps hc hhandler (by rw [hd]; rfl)
  obtain ⟨hcregs, hccpsr, hcspsr⟩ := charge_keeps o (prefetched s)
  have hget : ∀ q, t.regs.get q =
      if bank s.cpsr.mode rd = some q then (dpResult op rn o s).value else s.regs.get q := by
    intro q
    rw [hregs, writeReg_get, hcregs, hccpsr]
    rfl
  obtain ⟨p, hp⟩ := bank_some (m := s.cpsr.mode) hrd
  obtain ⟨hmode, -⟩ := flagsIf_keeps f (dpResult op rn o s) s.cpsr
  have hresult : t.readReg rd = op.result (s.readReg rn) (o.eval s).value s.cpsr.c := by
    have hbank : bank t.cpsr.mode rd = some p := by rw [hcpsr]; exact (congrArg (bank · rd) hmode).trans hp
    rw [readReg_of_bank hbank, hget, if_pos hp, dpResult_value]
  refine ⟨t, hnext, hadvance, hresult, ?_, ?_, fun q hq => ?_, ?_, hmem, hcycles, hrun⟩
  · rintro rfl
    rw [hresult, hcpsr]
    exact setFlags_dpResult op rn o s
  · rintro rfl
    exact hcpsr
  · rw [hget, if_neg fun hb => hq (List.mem_singleton.mpr hb.symm)]
  · rw [hspsr, writeReg_spsr, hcspsr]
    rfl

/-- Settles O29: S = 1 by the encoding, and only the CPSR is written. -/
theorem comparisonResult : Obligations.ComparisonResult := by
  intro i s op f rn rd o hd hw hc
  obtain ⟨-, hs⟩ := cls_of_dataProcessing hd
  obtain rfl := hs hw
  have hu : statusUpdate op true rd (prefetched s) = some .flags :=
    statusUpdate_flagsIf fun _ ⟨_, _, hw'⟩ => absurd (hw.symm.trans hw') (by decide)
  have hhandler := handler_compare (rn := rn) (o := o) hu hw
  rw [← hd, dpResult_prefetched] at hhandler
  obtain ⟨t, hnext, hadvance, hcpsr, hspsr, hregs, hmem, hcycles, hrun⟩ := exec_advance_keeps hc hhandler (by rw [hd]; rfl)
  obtain ⟨hcregs, -, hcspsr⟩ := charge_keeps o (prefetched s)
  exact ⟨rfl, t, hnext, hadvance, hcpsr.trans (setFlags_dpResult op rn o s), hregs.trans hcregs, hspsr.trans hcspsr, hmem,
    hcycles, hrun⟩

/-! ### A result in R15 (R173, R175) -/

/-- What a data-processing write of R15 does, for either update of the CPSR: the flush at the result, refused when the
update leaves T = 1 (R114). -/
theorem exec_writesPc {i : Instr} {s : State} {op : AluOp} {f : Bool} {rn : RegIx} {o : Operand2} {u : StatusUpdate}
    (hd : describe i = .dataProcessing op f rn 15 o) (hw : aluWrites op = true)
    (hu : statusUpdate op f 15 s = some u) (hc : conditionPassed i.cond s.cpsr = true) :
    ∃ t, exec i s = .next t ∧ t.cpsr = u.apply (dpResult op rn o s) s.cpsr ∧
      (t.cpsr.t = false → (s.beforeRefill i).RefilledAt t (op.result (s.readReg rn) (o.eval s).value s.cpsr.c)) ∧
      (t.cpsr.t = true → s.RefusedAt t (op.result (s.readReg rn) (o.eval s).value s.cpsr.c)) ∧
      t.regs = s.regs ∧ t.spsr = s.spsr ∧ s.KeepsMemory t (s.accesses i t) ∧
      t.icycles = s.icycles + (describe i).internalCycles ∧ s.KeepsRun t := by
  have hhandler := handler_writesPc (s := prefetched s) (rn := rn) (o := o) hu hw
  rw [← hd, dpResult_prefetched, dpResult_value] at hhandler
  obtain ⟨hnext, hmem, hcycles, hrun⟩ := exec_flush_keeps hc hhandler (by rw [hd]; rfl)
  obtain ⟨hcregs, -, hcspsr⟩ := charge_keeps o (prefetched s)
  have hk := handler_keeps _ _ _ (.inr hhandler)
  refine ⟨_, hnext, applyFlush_cpsr _, fun ht => ?_, fun ht => ?_, (applyFlush_regs _).trans hcregs,
    (applyFlush_spsr _).trans hcspsr, hmem, hcycles, hrun⟩
  · rw [applyFlush_cpsr] at ht
    exact flush_refilledAt hc hhandler ht
  · rw [applyFlush_cpsr] at ht
    rw [applyFlush_thumb _ ht]
    exact ⟨rfl, rfl, rfl, hk.qcur, hk.qnext⟩

/-- Settles O30: no SPSR is read, so T stays 0 and the flush refills. -/
theorem dataProcessingToPc : Obligations.DataProcessingToPc := by
  refine ⟨rfl, fun i s op f rn o hd hw hswitch hc hx => ?_⟩
  obtain ⟨-, harm⟩ := hx
  have hu : statusUpdate op f 15 s = some (flagsIf f) :=
    statusUpdate_flagsIf fun hf ⟨h, _⟩ => absurd (h.symm.trans (hswitch hf)) (by decide)
  obtain ⟨t, hnext, hcpsr, hrefill, -, hregs, hspsr, hmem, hcycles, hrun⟩ := exec_writesPc hd hw hu hc
  obtain ⟨-, ht⟩ := flagsIf_keeps f (dpResult op rn o s) s.cpsr
  refine ⟨t, hnext, hrefill ((congrArg Psr.t hcpsr).trans (ht.trans harm)), ?_, ?_, hregs, hspsr, hmem, hcycles, hrun⟩
  · rintro rfl
    exact hcpsr.trans (setFlags_dpResult op rn o s)
  · rintro rfl
    exact hcpsr

/-- Without a saved status to restore the enabled copy is the misuse of R318's table. -/
theorem errorOf_restore {s : State} {op : AluOp} {rn : RegIx} {o : Operand2} (hw : aluWrites op = true)
    (hswitch : s.launch.dpPcSRestoresSpsr = true)
    (h : s.spsrCur = none ∨ ∃ v, s.spsrCur = some v ∧ Mode.ofBits (bits v 4 0) = none) :
    s.errorOf (.dataProcessing op true rn 15 o) = some .fatalMisuse := by
  have hrestores : s.restoresStatus (.dataProcessing op true rn 15 o) = true := by
    simp [State.restoresStatus, hswitch, hw]
  rw [State.errorOf, if_pos hrestores]
  rcases h with hnone | ⟨v, hv, hm⟩
  · rw [hnone]
  · rw [hv]
    exact if_pos hm

/-- Settles O31: the copy is the saved status where it names a mode, and T of that decides how the flush ends. -/
theorem returnRestoresStatus : Obligations.ReturnRestoresStatus := by
  intro i s op rn o hd hw hswitch hc
  refine ⟨fun v hv hm => ?_, fun h => ?_⟩
  · obtain ⟨p, hp⟩ := (psr_ofWord_isSome_iff v).mpr (Option.ne_none_iff_exists'.mp hm)
    have hu := statusUpdate_restore hw hswitch (Option.bind_eq_some_iff.mpr ⟨v, hv, hp⟩)
    obtain ⟨t, hnext, hcpsr, hrest⟩ := exec_writesPc hd hw hu hc
    exact ⟨t, hnext, hcpsr ▸ psr_toWord_of_ofWord hp, hrest⟩
  · obtain ⟨hcls, -⟩ := cls_of_dataProcessing hd
    obtain ⟨e, he, hfault⟩ := exec_errorOf hc ((congrArg s.errorOf hd).trans (errorOf_restore hw hswitch h))
    exact ⟨e, _, hfault, hcls ▸ he, rfl, rfl, rfl, rfl, ⟨rfl, rfl, rfl⟩, rfl⟩

end Sys2Proof.Proofs
end

section
/-! SUPPORT. The single-transfer family (44_single_transfer.md): the address arithmetic, the two checks of R224, and what
a transfer that completes leaves, said once for loads and stores. -/

namespace Sys2Proof.Proofs

open Sys2Proof Sys2Proof.Machine Sys2Proof.Laws

/-! ### Addresses (R225, R226, R228) -/

/-- The two halves of a halfword-class immediate make one number (R82). -/
theorem toNat_imm4 (hi lo : BitVec 4) : ((hi ++ lo).setWidth 32).toNat = 16 * hi.toNat + lo.toNat := by
  rw [BitVec.toNat_setWidth, BitVec.toNat_append, ← Nat.shiftLeft_add_eq_or_of_lt lo.isLt, Nat.shiftLeft_eq,
    Nat.mod_eq_of_lt (by omega)]
  omega

/-- Settles O35: the offset of each form is read off its definition, and the effective address is a sum or a difference
modulo 2^32. -/
theorem effectiveAddress : Obligations.EffectiveAddress := by
  intro s t hx
  obtain ⟨hpcf, -⟩ := hx
  refine ⟨rfl, ?_, fun imm h => ?_, fun hi lo h => ?_, fun rm h => h ▸ rfl, fun type n rm h => h ▸ rfl, fun hu => ?_,
    fun hu => ?_, fun hp => if_pos hp, fun hp => if_neg (Bool.eq_false_iff.mp hp)⟩
  · exact hpcf.symm.trans (readReg_15 s).symm
  · rw [h]
    exact BitVec.toNat_setWidth_of_le (by decide)
  · rw [h]
    exact toNat_imm4 hi lo
  · rw [Transfer.ea, if_pos hu, BitVec.toNat_add]
  · rw [Transfer.ea, if_neg (Bool.eq_false_iff.mp hu), ← BitVec.toNat_add, BitVec.sub_add_cancel]

/-! ### The checks before the access (R222 to R224) -/

/-- An error of R318's table changes nothing but `ERR`, and the bus by the prefetch read (R319). -/
theorem exec_errorOf_keeps {i : Instr} {s : State} {k : ErrorKind} (hc : conditionPassed i.cond s.cpsr = true)
    (h : s.errorOf (describe i) = some k) :
    ∃ e faulted, exec i s = .fault (.raised e faulted) ∧ e = { kind := k, ia := s.ia, raw := s.qcur, cls := i.cls } ∧
      faulted.regs = s.regs ∧ faulted.pcf = s.pcf ∧ faulted.cpsr = s.cpsr ∧ faulted.spsr = s.spsr ∧
      faulted.BusIs (s.afterRead .word (s.ia + 8)) ∧ faulted.icycles = s.icycles ∧ faulted.err = some e := by
  obtain ⟨e, he, hfault⟩ := exec_errorOf hc h
  exact ⟨e, _, hfault, he, rfl, rfl, rfl, rfl, ⟨rfl, rfl, rfl⟩, rfl, rfl⟩

/-- R222: the first check. -/
theorem errorOf_single_writeback {t : Transfer} (hw : t.w = true) (hr : t.rn = t.rd) (s : State) :
    s.errorOf (.single t) = some .illegalInstruction := if_pos ⟨hw, hr⟩

/-- With W = 0 the first check never fires. -/
theorem errorOf_single_ne_illegalInstruction {t : Transfer} (hw : t.w = false) (s : State) :
    s.errorOf (.single t) ≠ some .illegalInstruction := by
  rw [State.errorOf, if_neg (by simp [hw])]
  split <;> simp

/-- R223 after R222: a signed store is an error whatever its other fields. -/
theorem errorOf_single_signedStore {t : Transfer} (hl : t.load = false) (hk : t.kind = .sbyte ∨ t.kind = .shalf)
    (s : State) :
    s.errorOf (.single t) = some (if t.w = true ∧ t.rn = t.rd then .illegalInstruction else .fatalMisuse) := by
  rw [State.errorOf, if_pos (And.intro hl hk)]
  split <;> rfl

/-- Settles O19, by the two checks in their order. -/
theorem signedStoresRaise : Obligations.SignedStoresRaise := by
  intro i s t hd hl hk hc
  exact exec_errorOf_keeps hc (hd ▸ errorOf_single_signedStore hl hk s)

/-- Under a failing condition the prefetch is the only access, and no register changes (R102). -/
theorem exec_failed_keeps {i : Instr} {s : State} (hc : conditionPassed i.cond s.cpsr = false) :
    ∃ u, exec i s = .next u ∧ s.AdvancesTo u ∧ u.regs = s.regs ∧ s.KeepsMemory u (s.accesses i u) := by
  have hnext := failedConditionOnlyAdvances i s hc
  refine ⟨_, hnext, exec_advancesTo hnext (by simp [hc]), rfl,
    keepsMemory_of_reads (busIs_of_sameBus (exec_bus hnext)) ?_⟩
  simp [State.accesses, State.ownAccesses, hc, Reads]

/-- Settles O20: the check of R222, the failing condition, and no such error with W = 0. -/
theorem writebackOntoDestinationRaises : Obligations.WritebackOntoDestinationRaises := by
  intro i s t hd
  refine ⟨fun hw hr hc => ?_, fun _ _ hc => exec_failed_keeps hc, fun hw e faulted hfault hkind => ?_⟩
  · exact exec_errorOf_keeps hc (hd ▸ errorOf_single_writeback hw hr s)
  · obtain ⟨-, ⟨k, hk, hrecord⟩ | ⟨-, hstuck⟩⟩ := exec_fault hfault
    · cases hrecord
      obtain rfl : k = .illegalInstruction := hkind
      rw [handler_error, errorOf_prefetched, hd] at hk
      exact errorOf_single_ne_illegalInstruction hw s hk
    · cases hstuck

/-! ### The user-mode forms (R234) -/

/-- A post-indexed transfer writes its base back whatever W is, so with Rn not Rd its W does not matter. -/
theorem singleTransfer_postIndexed_w {t : Transfer} (hp : t.p = false) (hr : t.rn ≠ t.rd) :
    singleTransfer { t with w := true } = singleTransfer { t with w := false } := by
  funext s
  simp only [singleTransfer, Transfer.writesBack, Transfer.addr, Transfer.ea, hp, hr, and_false, Bool.not_false,
    Bool.or_true]

/-- Two post-indexed instructions of one class and condition that differ in W only execute alike where Rn is not Rd. -/
theorem exec_postIndexed_w {i j : Instr} {s : State} (t : Transfer) (hi : describe i = .single { t with w := true })
    (hj : describe j = .single { t with w := false }) (hcls : i.cls = j.cls) (hcond : i.cond = j.cond)
    (hp : t.p = false) (hr : t.rn ≠ t.rd) : exec i s = exec j s := by
  refine exec_congr hcls hcond ?_ s
  rw [hi, hj]
  exact singleTransfer_postIndexed_w hp hr

/-- A form with W = 1 raises the error of R222 where Rn = Rd. -/
theorem exec_single_illegal {i : Instr} {s : State} {t : Transfer} (hd : describe i = .single t) (hw : t.w = true)
    (hr : t.rn = t.rd) (hc : conditionPassed i.cond s.cpsr = true) :
    ∃ e faulted, exec i s = .fault (.raised e faulted) ∧ e.kind = .illegalInstruction := by
  obtain ⟨e, he, hfault⟩ := exec_errorOf hc (hd ▸ errorOf_single_writeback hw hr s)
  exact ⟨e, _, hfault, congrArg ErrorRecord.kind he⟩

/-- Settles O38: W is all that tells the forms apart. -/
theorem userModeTransfersArePlain : Obligations.UserModeTransfersArePlain := by
  refine ⟨fun f s hr => ?_, fun f s hr => ?_, fun f i s hr hc hi => ?_, fun f i s hr hc hi => ?_⟩
  · exact ⟨exec_postIndexed_w (transferImmPost f .word true true) rfl rfl rfl rfl rfl hr,
      exec_postIndexed_w (transferImmPost f .word false true) rfl rfl rfl rfl rfl hr,
      exec_postIndexed_w (transferImmPost f .ubyte true true) rfl rfl rfl rfl rfl hr,
      exec_postIndexed_w (transferImmPost f .ubyte false true) rfl rfl rfl rfl rfl hr⟩
  · exact ⟨exec_postIndexed_w (transferRegPost f .word true true) rfl rfl rfl rfl rfl hr,
      exec_postIndexed_w (transferRegPost f .word false true) rfl rfl rfl rfl rfl hr,
      exec_postIndexed_w (transferRegPost f .ubyte true true) rfl rfl rfl rfl rfl hr,
      exec_postIndexed_w (transferRegPost f .ubyte false true) rfl rfl rfl rfl rfl hr⟩
  · simp only [List.mem_cons, List.not_mem_nil, or_false] at hi
    rcases hi with rfl | rfl | rfl | rfl <;> exact exec_single_illegal rfl rfl hr hc
  · simp only [List.mem_cons, List.not_mem_nil, or_false] at hi
    rcases hi with rfl | rfl | rfl | rfl <;> exact exec_single_illegal rfl rfl hr hc

/-! ### What a transfer that completes leaves (R221, R229, R230) -/

/-- The value a load gives Rd, the bus being that of `s` (R221, R229). -/
def loadedValue (t : Transfer) (s : State) : Word := t.kind.extend (s.busReadValue t.kind.width (t.addr s))

/-- A register read after a write that may not be made. -/
theorem ite_writeReg_readReg (b : Bool) (s : State) (i j : RegIx) (v : Word) :
    (if b = true then s.writeReg i v else s).readReg j = if b = true ∧ i = j then v else s.readReg j := by
  cases b with
  | false => simp
  | true => simp [readReg_writeReg]

/-- Rd of a load, and after it the base: the writeback comes last (R230). R15 reads as `PCF`. -/
theorem singleEnd_readReg (t : Transfer) (s : State) (j : RegIx) :
    (singleEnd t s).readReg j =
      if t.writesBack = true ∧ t.rn = j then t.ea s
      else if t.load = true ∧ t.rd = j then loadedValue t s
      else s.readReg j := by
  simp only [singleEnd, ite_writeReg_readReg]
  cases t.load with
  | false => simp
  | true => simp [readReg_writeReg, loadedValue]

/-- No transfer writes a status register. -/
theorem singleEnd_status (t : Transfer) (s : State) :
    (singleEnd t s).cpsr = s.cpsr ∧ (singleEnd t s).spsr = s.spsr := by
  cases hw : t.writesBack <;> cases hl : t.load <;> simp [singleEnd, hw, hl]

/-- The completion of an instruction whose handler flushes or advances by a test, as the transfers' do, with T = 0. -/
theorem exec_flushIf {i : Instr} {s s1 : State} {b : Bool} (hc : conditionPassed i.cond s.cpsr = true)
    (h : (describe i).handler (prefetched s) = HandlerResult.flushIf b s1) (ht : s1.cpsr.t = false) :
    ∃ u, exec i s = .next u ∧ u.regs = s1.regs ∧ u.cpsr = s1.cpsr ∧ u.spsr = s1.spsr ∧
      u.icycles = s.icycles + (describe i).internalCycles ∧
      (if b = true then (s.beforeRefill i).RefilledAt u s1.pcf else s.AdvancesTo u) := by
  cases b with
  | false =>
    have hk := handler_keeps _ _ _ (.inl h)
    exact ⟨_, exec_advance hc h, rfl, rfl, rfl, handler_cycles _ (prefetched s) s1 (.inl h),
      advancesTo_applyAdvance hk.ia hk.qnext hk.refused⟩
  | true =>
    exact ⟨_, exec_flush hc h, applyFlush_regs _, applyFlush_cpsr _, applyFlush_spsr _,
      (applyFlush_icycles _).trans (handler_cycles _ (prefetched s) s1 (.inr h)), flush_refilledAt hc h ht⟩

/-- What a single transfer that completes leaves, the bus apart. -/
structure SingleEffect (i : Instr) (t : Transfer) (s u : State) : Prop where
  next : exec i s = .next u
  /-- The base's writeback comes after Rd's load (R230). -/
  readReg : ∀ j : RegIx, j ≠ 15 → u.readReg j =
    if t.writesBack = true ∧ t.rn = j then t.ea s
    else if t.load = true ∧ t.rd = j then loadedValue t (prefetched s)
    else s.readReg j
  outOfReach : ∀ p, OutOfReach s.cpsr.mode p → u.regs.get p = s.regs.get p
  /-- A writeback to R15 and a load of R15 flush (R106, R230). -/
  pipeline : if t.writesBack = true ∧ t.rn = 15 then (s.beforeRefill i).RefilledAt u (t.ea s)
    else if t.load = true ∧ t.rd = 15 then (s.beforeRefill i).RefilledAt u (loadedValue t (prefetched s))
    else s.AdvancesTo u
  cpsr : u.cpsr = s.cpsr
  spsr : u.spsr = s.spsr
  icycles : u.icycles = s.icycles + (describe i).internalCycles

/-- A register other than R15 reads the same in states with the same registers and status. -/
theorem readReg_eq_of_regs {s u : State} {j : RegIx} (hj : j ≠ 15) (hr : u.regs = s.regs) (hs : u.cpsr = s.cpsr) :
    u.readReg j = s.readReg j := by
  obtain ⟨p, hp⟩ := bank_some (m := s.cpsr.mode) hj
  rw [readReg_of_bank hp, readReg_of_bank (hs ▸ hp), hr]

section
variable {i : Instr} {t : Transfer} {s u : State}

/-- Past the checks of R222 and R223, and where the bus has a step, the handler ends in `singleEnd` (R221). -/
theorem handler_single (hw : ¬(t.w = true ∧ t.rn = t.rd)) (hk : ¬(t.load = false ∧ t.kind.signed = true))
    (hstuck : s.launch.stuckAt t.kind.width (t.addr s) = false) :
    (Descriptor.single t).handler s =
      HandlerResult.flushIf ((t.load && t.rd == 15) || (t.writesBack && t.rn == 15)) (singleEnd t s) := by
  rw [Descriptor.handler, singleTransfer_eq, if_neg hw, if_neg hk, if_neg (Bool.eq_false_iff.mp hstuck)]

/-- Past the checks of R222 and R223, and where the bus has a step, a single transfer completes (R221). -/
theorem exec_single (hd : describe i = .single t) (hc : conditionPassed i.cond s.cpsr = true) (hx : s.Executing)
    (hw : ¬(t.w = true ∧ t.rn = t.rd)) (hk : ¬(t.load = false ∧ t.kind.signed = true))
    (hstuck : s.launch.stuckAt t.kind.width (t.addr s) = false) : ∃ u, SingleEffect i t s u := by
  obtain ⟨-, harm⟩ := hx
  obtain ⟨hcpsr, hspsr⟩ := singleEnd_status t (prefetched s)
  have hhandler := handler_single (s := prefetched s) hw hk (by rw [addr_prefetched]; exact hstuck)
  rw [← hd] at hhandler
  have hread := singleEnd_readReg t (prefetched s)
  simp only [ea_prefetched, afterRead_readReg] at hread
  obtain ⟨u, hnext, huregs, hucpsr, huspsr, hcycles, hpipe⟩ := exec_flushIf hc hhandler (hcpsr ▸ harm)
  refine ⟨u, hnext, fun j hj => ?_, fun p hp => ?_, ?_, hucpsr.trans hcpsr, huspsr.trans hspsr, hcycles⟩
  · rw [readReg_eq_of_regs hj huregs hucpsr, hread]
  · rw [huregs]
    exact singleEnd_outOfReach (s := prefetched s) hp
  · rw [(readReg_15 _).symm.trans (hread 15)] at hpipe
    simp only [Bool.or_eq_true, Bool.and_eq_true, beq_iff_eq] at hpipe
    by_cases hb : t.writesBack = true ∧ t.rn = 15
    · rw [if_pos (.inr hb), if_pos hb] at hpipe
      rwa [if_pos hb]
    · by_cases hl : t.load = true ∧ t.rd = 15
      · rw [if_pos (.inl hl), if_neg hb, if_pos hl] at hpipe
        rwa [if_neg hb, if_pos hl]
      · rw [if_neg (not_or.mpr ⟨hl, hb⟩)] at hpipe
        rwa [if_neg hb, if_neg hl]

/-- The base takes the effective address (R230), whatever Rd is. -/
theorem SingleEffect.readReg_base (h : SingleEffect i t s u) (hw : t.writesBack = true) (hn : t.rn ≠ 15) :
    u.readReg t.rn = t.ea s := by
  rw [h.readReg _ hn, if_pos ⟨hw, rfl⟩]

/-- A transfer keeps every register but the Rd of a load and the base of a writeback. -/
theorem SingleEffect.keepsRegsBut (h : SingleEffect i t s u) {l : List (Option PhysReg)}
    (hrd : t.load = true → bank s.cpsr.mode t.rd ∈ l) (hrn : t.writesBack = true → bank s.cpsr.mode t.rn ∈ l) :
    s.KeepsRegsBut u l := by
  intro p hp
  by_cases hout : OutOfReach s.cpsr.mode p
  · exact h.outOfReach p hout
  · obtain ⟨j, hj⟩ := not_forall_not.mp hout
    have hj15 : j ≠ 15 := by
      rintro rfl
      simp at hj
    rw [← readReg_of_bank (s := u) (i := j) (by rw [h.cpsr, hj]), h.readReg j hj15, if_neg, if_neg,
      readReg_of_bank hj]
    · rintro ⟨hl, rfl⟩
      exact hp (hj ▸ hrd hl)
    · rintro ⟨hw, rfl⟩
      exact hp (hj ▸ hrn hw)

end

/-! ### Loads (R229, R232, R235, R237, R239, R240) -/

/-- Settles O36: the effect of a transfer with L = 1, whose accesses are all reads. -/
theorem loadResult : Obligations.LoadResult := by
  rintro i s p t v hd hl hc hx hw hstuck rfl hv
  have hloaded : v = loadedValue t (prefetched s) := by
    rw [hv, loadedValue, addr_prefetched]
    cases t.kind <;> rfl
  obtain ⟨u, h⟩ := exec_single hd hc hx hw (by simp [hl]) hstuck
  have hpipe := h.pipeline
  simp only [hl, true_and, ← hloaded] at hpipe
  refine ⟨u, h.next, fun hrd hnb => ?_, h.readReg_base, hpipe, h.keepsRegsBut (by simp) (fun hb => by simp [hb]),
    h.cpsr, h.spsr, exec_keepsMemory h.next ?_, ?_, exec_run h.next⟩
  · rw [h.readReg _ hrd, if_neg hnb, if_pos ⟨hl, rfl⟩, hloaded]
  · simp [hd, State.dataAccesses, hl, Reads]
  · rw [h.icycles, hd, Descriptor.internalCycles, if_pos hl]

/-! ### Stores (R227, R233, R236, R238) -/

/-- A write to the flat memory between reads of it leaves the value's bytes, and every other byte as it was. -/
theorem busAfter_write_among_reads {s : State} {w : Width} {a v : Word} {before after : List Access}
    (hb : ∀ x ∈ before, Reads x) (ha : ∀ x ∈ after, Reads x)
    (hp : ∀ x ∈ before ++ .write w a v :: after, s.launch.plainAccess x = true) :
    (∀ k < w.bytes, (s.busAfter (before ++ .write w a v :: after)).mem.byteAt (a + BitVec.ofNat 32 k) =
        v.extractLsb' (8 * k) 8) ∧
      ∀ b : Word, w.bytes ≤ (b - a).toNat →
        (s.busAfter (before ++ .write w a v :: after)).mem.byteAt b = s.mem.byteAt b := by
  simp only [List.forall_mem_append, List.forall_mem_cons] at hp
  obtain ⟨hpb, hpw, hpa⟩ := hp
  have hlaunch := (busOnly_busAfter s before).launch
  have hmem : (s.busAfter (before ++ .write w a v :: after)).mem = (s.busAfter before).busWriteMem w a v := by
    rw [busAfter_append, busAfter_cons]
    exact (busAfter_plain_reads ha (by simpa [Access.apply, hlaunch] using hpa)).1
  rw [hmem, ← (busAfter_plain_reads hb hpb).1]
  exact busWriteMem_bytes (s.busAfter before) w a v (by rw [hlaunch]; exact hpw)

/-- The bytes after an instruction that stores once, where its accesses go to the flat memory: but for the write it
makes only the prefetch and the reads of a refill (R111, R114). -/
theorem exec_store_bytes {i : Instr} {s u : State} {w : Width} {a v : Word} (h : exec i s = .next u)
    (hc : conditionPassed i.cond s.cpsr = true) (hd : s.dataAccesses (describe i) = [.write w a v])
    (hp : ∀ x ∈ s.accesses i u, s.launch.plainAccess x = true) :
    (∀ k < w.bytes, u.mem.byteAt (a + BitVec.ofNat 32 k) = v.extractLsb' (8 * k) 8) ∧
      ∀ b : Word, w.bytes ≤ (b - a).toNat → u.mem.byteAt b = s.mem.byteAt b := by
  have hmem := (exec_bus h).mem
  rw [State.accesses, State.ownAccesses, if_pos hc, hd] at hmem hp
  rw [hmem]
  refine busAfter_write_among_reads (before := [.read .word (s.ia + 8)]) (by simp [Reads]) ?_ hp
  split
  · exact reads_refillReads _
  · simp

/-- Settles O37: the effect of a transfer with L = 0, whose one write lies between reads. -/
theorem storeResult : Obligations.StoreResult := by
  intro i s t v hd hl hk hc hx hw hstuck hv
  have hunsigned : ¬(t.load = false ∧ t.kind.signed = true) := by
    rcases hk with h | h | h <;> simp [h, TransferKind.signed]
  obtain ⟨u, h⟩ := exec_single hd hc hx hw hunsigned hstuck
  have haccess : s.dataAccesses (describe i) = [.write t.kind.width (t.addr s) v] := by
    rw [hd, hv]
    simp [State.dataAccesses, hl, State.storeValue]
  have hbytes := exec_store_bytes h.next hc haccess
  have hpipe := h.pipeline
  simp only [hl, Bool.false_eq_true, false_and, if_false] at hpipe
  refine ⟨u, h.next, haccess, ⟨busIs_of_sameBus (exec_bus h.next), fun hp => (hbytes hp).2⟩,
    fun hp => (hbytes hp).1, h.readReg_base, hpipe, h.keepsRegsBut (by simp [hl]) (fun hb => by simp [hb]),
    h.cpsr, h.spsr, ?_, exec_run h.next⟩
  rw [h.icycles, hd, Descriptor.internalCycles, hl]
  rfl

end Sys2Proof.Proofs
end

section
/-! SUPPORT. The block-transfer family (45_block_transfer.md): what LDM and STM leave when they complete, said once for loads
and stores, and what the flat memory holds after them. -/

namespace Sys2Proof.Proofs

open Sys2Proof Sys2Proof.Machine Sys2Proof.Laws

/-! ### The S bit (R262, R282) -/

/-- R262: S = 1 is an error whatever the other operands are. -/
theorem errorOf_block_user (t : BlockTransfer) (s : State) : s.errorOf (.block true t) = some .fatalMisuse := rfl

/-- Settles O18: each of the eight forms has S = 1, and its error leaves the state alone. -/
theorem userBankBlockTransfersRaise : Obligations.UserBankBlockTransfersRaise := by
  intro f i s hi hc
  obtain ⟨⟨t, hd⟩, hcond, hcls⟩ : (∃ t, describe i = .block true t) ∧ i.cond = f.cond ∧ i.cls = .ldmStm := by
    simp only [List.mem_cons, List.not_mem_nil, or_false] at hi
    rcases hi with rfl | rfl | rfl | rfl | rfl | rfl | rfl | rfl <;> exact ⟨⟨_, rfl⟩, rfl, rfl⟩
  rw [← hcls]
  exact exec_errorOf_keeps (hcond ▸ hc) (hd ▸ errorOf_block_user t s)

/-! ### The registers a block transfer leaves (R261, R264, R266) -/

/-- A load whose list holds the base does not write it back (R264). -/
theorem not_writesBack_of_listed {t : BlockTransfer} (hl : t.load = true) (hb : t.list.getLsbD t.rn.toNat = true) :
    t.writesBack = false := by
  simp [BlockTransfer.writesBack, hl, hb]

/-- A store writes its base back whenever W = 1 (R264). -/
theorem writesBack_store {t : BlockTransfer} (hl : t.load = false) : t.writesBack = t.w := by
  simp [BlockTransfer.writesBack, hl]

/-- A base that is not listed is written back whenever W = 1 (R264). -/
theorem writesBack_of_not_listed {t : BlockTransfer} (hb : t.list.getLsbD t.rn.toNat = false) : t.writesBack = t.w := by
  simp [BlockTransfer.writesBack, hb]

/-- No base is written back with W = 0 (R264). -/
theorem w_of_writesBack {t : BlockTransfer} (hw : t.writesBack = true) : t.w = true := (Bool.and_eq_true_iff.mp hw).1

/-- What `x[j]` reads after a block transfer from `s`: the base its writeback, which comes last, a register that is loaded
its word, and any other its old value. -/
def blockValue (t : BlockTransfer) (s : State) (j : RegIx) : Word :=
  if t.writesBack = true ∧ t.rn = j then t.final (s.readReg t.rn)
  else if t.load = true ∧ t.list.getLsbD j.toNat = true then s.blockWord t j
  else s.readReg j

theorem blockValue_base {t : BlockTransfer} (hw : t.writesBack = true) (s : State) :
    blockValue t s t.rn = t.final (s.readReg t.rn) := if_pos ⟨hw, rfl⟩

theorem blockValue_loaded {t : BlockTransfer} {j : RegIx} (hl : t.load = true) (hj : t.list.getLsbD j.toNat = true)
    (s : State) : blockValue t s j = s.blockWord t j := by
  rw [blockValue, if_neg, if_pos ⟨hl, hj⟩]
  rintro ⟨hw, rfl⟩
  exact absurd (hw.symm.trans (not_writesBack_of_listed hl hj)) (by decide)

theorem blockValue_other {t : BlockTransfer} {j : RegIx} (hw : ¬(t.writesBack = true ∧ t.rn = j))
    (hj : ¬(t.load = true ∧ t.list.getLsbD j.toNat = true)) (s : State) : blockValue t s j = s.readReg j := by
  rw [blockValue, if_neg hw, if_neg hj]

/-- The loop of a load: each listed register its word, and the rest their old values (R261). -/
theorem run_load_order_readReg {t : BlockTransfer} (hl : t.load = true) (s : State) (j : RegIx) :
    (t.run t.order (s.readReg t.rn) s).2.readReg j =
      if t.list.getLsbD j.toNat = true then s.blockWord t j else s.readReg j := by
  split
  next hj => exact run_load_readReg hl _ _ s (visits_order t _) (order_nodup t) j ((mem_order t j).mpr hj)
  next hj => exact run_load_readReg_other hl _ _ s j (mt (mem_order t j).mp hj)

/-- The loop of a store leaves every register (R266). -/
theorem run_store_readReg {t : BlockTransfer} (hl : t.load = false) (l : List RegIx) (a : Word) (s : State) (j : RegIx) :
    (t.run l a s).2.readReg j = s.readReg j := by
  obtain ⟨hregs, hpcf⟩ := run_store_regs hl l a s
  obtain ⟨-, hcpsr, -⟩ := block_run_keeps t l a s
  exact readReg_congr hregs hpcf (by rw [hcpsr]) j

/-- The registers after a block transfer, `PCF` as R15 among them. -/
theorem blockEnd_readReg (t : BlockTransfer) (s : State) (j : RegIx) :
    (blockEnd t s).readReg j = blockValue t s j := by
  simp only [blockEnd, ite_writeReg_readReg, run_final, blockValue]
  cases hl : t.load with
  | true => simp only [run_load_order_readReg hl, true_and]
  | false => simp only [run_store_readReg hl, Bool.false_eq_true, false_and, if_false]

/-- No block transfer writes a status register. -/
theorem blockEnd_status (t : BlockTransfer) (s : State) : (blockEnd t s).cpsr = s.cpsr ∧ (blockEnd t s).spsr = s.spsr := by
  obtain ⟨-, hcpsr, hspsr⟩ := block_run_keeps t t.order (s.readReg t.rn) s
  cases hw : t.writesBack <;> simp [blockEnd, hw, hcpsr, hspsr]

/-! ### What a block transfer that completes leaves (R261, R268, R272) -/

/-- What a block transfer that completes leaves, the bus apart. -/
structure BlockEffect (i : Instr) (t : BlockTransfer) (s u : State) : Prop where
  next : exec i s = .next u
  readReg : ∀ j : RegIx, j ≠ 15 → u.readReg j = blockValue t (prefetched s) j
  outOfReach : ∀ p, OutOfReach s.cpsr.mode p → u.regs.get p = s.regs.get p
  /-- A load of R15 and a writeback to R15 flush (R106, R272). -/
  pipeline : if (t.load = true ∧ t.list.getLsbD 15 = true) ∨ (t.writesBack = true ∧ t.rn = 15) then
      (s.beforeRefill i).RefilledAt u (blockValue t (prefetched s) 15)
    else s.AdvancesTo u
  cpsr : u.cpsr = s.cpsr
  spsr : u.spsr = s.spsr
  icycles : u.icycles = s.icycles + (describe i).internalCycles

/-- An instruction keeps the registers out of reach and those whose index reads as before. -/
theorem keepsRegsBut_of_readReg {s u : State} {l : List (Option PhysReg)} (hcpsr : u.cpsr = s.cpsr)
    (hout : ∀ p, OutOfReach s.cpsr.mode p → u.regs.get p = s.regs.get p)
    (hread : ∀ j : RegIx, j ≠ 15 → bank s.cpsr.mode j ∉ l → u.readReg j = s.readReg j) : s.KeepsRegsBut u l := by
  intro p hp
  by_cases hreach : OutOfReach s.cpsr.mode p
  · exact hout p hreach
  · obtain ⟨j, hj⟩ := not_forall_not.mp hreach
    have hj15 : j ≠ 15 := by
      rintro rfl
      simp at hj
    rw [← readReg_of_bank (s := u) (by rw [hcpsr, hj]), hread j hj15 (hj ▸ hp), readReg_of_bank hj]

section
variable {i : Instr} {t : BlockTransfer} {s u : State}

/-- With S = 0, and where the bus has a step, the handler ends in `blockEnd` (R261). -/
theorem handler_block (hstuck : ∀ r : RegIx, t.list.getLsbD r.toNat = true →
      s.launch.stuckAt .word (t.addrOf (s.readReg t.rn) r) = false) :
    (Descriptor.block false t).handler s =
      HandlerResult.flushIf ((t.load && t.list.getLsbD 15) || (t.writesBack && t.rn == 15)) (blockEnd t s) := by
  rw [Descriptor.handler, blockTransfer_eq, if_neg Bool.false_ne_true, if_neg]
  rw [blockTransfer_addresses, List.any_map, List.any_eq_true]
  rintro ⟨r, hr, hrstuck⟩
  exact absurd (hrstuck.symm.trans (hstuck r ((mem_order t r).mp hr))) (by decide)

/-- With S = 0, and where the bus has a step, a block transfer completes (R261). -/
theorem exec_block (hd : describe i = .block false t) (hc : conditionPassed i.cond s.cpsr = true) (hx : s.Executing)
    (hstuck : ∀ r : RegIx, t.list.getLsbD r.toNat = true →
      s.launch.stuckAt .word (t.addrOf (s.readReg t.rn) r) = false) : ∃ u, BlockEffect i t s u := by
  obtain ⟨-, harm⟩ := hx
  obtain ⟨hcpsr, hspsr⟩ := blockEnd_status t (prefetched s)
  have hhandler := handler_block (s := prefetched s) hstuck
  rw [← hd] at hhandler
  obtain ⟨u, hnext, huregs, hucpsr, huspsr, hcycles, hpipe⟩ := exec_flushIf hc hhandler (hcpsr ▸ harm)
  refine ⟨u, hnext, fun j hj => ?_, fun p hp => ?_, ?_, hucpsr.trans hcpsr, huspsr.trans hspsr, hcycles⟩
  · rw [readReg_eq_of_regs hj huregs hucpsr, blockEnd_readReg]
  · rw [huregs]
    exact blockEnd_outOfReach (s := prefetched s) hp
  · rw [(readReg_15 _).symm.trans (blockEnd_readReg t _ 15)] at hpipe
    simpa only [Bool.or_eq_true, Bool.and_eq_true, beq_iff_eq] using hpipe

/-- The base takes the final address (R264). -/
theorem BlockEffect.readReg_base (h : BlockEffect i t s u) (hw : t.writesBack = true) (hn : t.rn ≠ 15) :
    u.readReg t.rn = t.final (s.readReg t.rn) := (h.readReg _ hn).trans (blockValue_base hw _)

/-- A load of R15 flushes to its word (R267, R272). -/
theorem BlockEffect.pipeline_loaded (h : BlockEffect i t s u) (hl : t.load = true) (h15 : t.list.getLsbD 15 = true) :
    (s.beforeRefill i).RefilledAt u ((prefetched s).blockWord t 15) := by
  have hpipe := h.pipeline
  rwa [if_pos (.inl ⟨hl, h15⟩), blockValue_loaded (j := 15) hl h15] at hpipe

/-- A writeback to R15 flushes to the final address (R272). -/
theorem BlockEffect.pipeline_base (h : BlockEffect i t s u) (hw : t.writesBack = true) (hn : t.rn = 15) :
    (s.beforeRefill i).RefilledAt u (t.final (s.readReg t.rn)) := by
  have hpipe := h.pipeline
  rwa [if_pos (.inr ⟨hw, hn⟩), ← hn, blockValue_base hw] at hpipe

/-- A transfer keeps every register but those loaded and the base of a writeback. -/
theorem BlockEffect.keepsRegsBut (h : BlockEffect i t s u) {l : List (Option PhysReg)}
    (hload : t.load = true → ∀ r : RegIx, t.list.getLsbD r.toNat = true → bank s.cpsr.mode r ∈ l)
    (hbase : t.writesBack = true → bank s.cpsr.mode t.rn ∈ l) : s.KeepsRegsBut u l := by
  refine keepsRegsBut_of_readReg h.cpsr h.outOfReach fun j hj hjl => ?_
  rw [h.readReg j hj, blockValue_other, afterRead_readReg]
  · rintro ⟨hw, rfl⟩
    exact hjl (hbase hw)
  · rintro ⟨hl, hlisted⟩
    exact hjl (hload hl j hlisted)

/-! ### Blocks in the flat memory (R53, R263, R271) -/

/-- The access for a register goes to the flat memory when its address does. -/
theorem plainAccess_accessOf (l : Launch) (t : BlockTransfer) (s : State) (r : RegIx) :
    l.plainAccess (t.accessOf s r) = l.plain .word (t.addrOf (s.readReg t.rn) r) := by
  unfold BlockTransfer.accessOf
  cases t.load <;> rfl

/-- The accesses of a load are reads. -/
theorem reads_accessOf (hl : t.load = true) (l : List RegIx) : ∀ x ∈ l.map (t.accessOf s), Reads x := by
  rw [List.forall_mem_map]
  intro r _
  rw [BlockTransfer.accessOf, if_pos hl]
  trivial

/-- The own accesses of a block transfer are in the flat memory when the prefetch and every word of the block are. -/
theorem plain_ownAccesses_block {b : Bool} (hd : describe i = .block b t) (hc : conditionPassed i.cond s.cpsr = true) :
    (∀ x ∈ s.ownAccesses i, s.launch.plainAccess x = true) ↔
      s.launch.plain .word (s.ia + 8) = true ∧
        ∀ r : RegIx, t.list.getLsbD r.toNat = true → s.launch.plain .word (t.addrOf (s.readReg t.rn) r) = true := by
  rw [State.ownAccesses, if_pos hc, hd, List.forall_mem_cons]
  simp only [State.dataAccesses, List.forall_mem_map, plainAccess_accessOf, mem_order]
  rfl

/-- A load of the flat memory gives each register the word at its address: no read changes anything. -/
theorem blockWord_plain (hl : t.load = true)
    (hp : ∀ r : RegIx, t.list.getLsbD r.toNat = true → s.launch.plain .word (t.addrOf (s.readReg t.rn) r) = true)
    {r : RegIx} (hr : t.list.getLsbD r.toNat = true) :
    s.blockWord t r = s.mem.wordAt (t.addrOf (s.readReg t.rn) r) := by
  have hbefore : ∀ x ∈ (t.order.takeWhile fun q => q != r).map (t.accessOf s), s.launch.plainAccess x = true := by
    rw [List.forall_mem_map]
    intro q hq
    rw [plainAccess_accessOf]
    exact hp q ((mem_order t q).mp (List.takeWhile_subset _ hq))
  rw [State.blockWord, busReadValue_word, (busAfter_plain_reads (reads_accessOf hl _) hbefore).1]
  rw [(busOnly_busAfter s _).launch]
  exact hp r hr

/-- The same after the prefetch, where the instruction's own accesses go to the flat memory. -/
theorem blockWord_prefetched {b : Bool} (hd : describe i = .block b t) (hc : conditionPassed i.cond s.cpsr = true)
    (hl : t.load = true) (hp : ∀ x ∈ s.ownAccesses i, s.launch.plainAccess x = true) {r : RegIx}
    (hr : t.list.getLsbD r.toNat = true) :
    (prefetched s).blockWord t r = s.mem.wordAt (t.addrOf (s.readReg t.rn) r) := by
  obtain ⟨hprefetch, hblock⟩ := (plain_ownAccesses_block hd hc).mp hp
  have hmem : (prefetched s).mem = s.mem := busReadMem_plain hprefetch
  rw [blockWord_plain (s := prefetched s) hl hblock hr, hmem, afterRead_readReg]

/-- The refill of an instruction whose accesses go to the flat memory leaves memory alone. -/
theorem exec_mem_beforeRefill (h : exec i s = .next u) (hp : ∀ x ∈ s.accesses i u, s.launch.plainAccess x = true) :
    u.mem = (s.beforeRefill i).mem := by
  rw [State.accesses, List.forall_mem_append] at hp
  rw [(exec_bus h).mem, State.accesses, busAfter_append]
  refine (busAfter_plain_reads ?_ ?_).1
  · split
    · exact reads_refillReads _
    · simp
  · rw [(busOnly_busAfter s _).launch]
    exact hp.2

/-- The bus of a block transfer before its refill is that of its loop. -/
theorem beforeRefill_block {b : Bool} (hd : describe i = .block b t) (hc : conditionPassed i.cond s.cpsr = true) :
    (s.beforeRefill i).mem = (t.run t.order (s.readReg t.rn) (prefetched s)).2.mem := by
  rw [State.beforeRefill, State.ownAccesses, if_pos hc, hd]
  exact (run_bus t.order _ (prefetched s) (visits_order t (s.readReg t.rn))).mem.symm

/-- The flat memory after a store: each listed register's value at its address, and every other byte as it was. -/
theorem exec_block_store_mem {b : Bool} (h : exec i s = .next u) (hd : describe i = .block b t) (hl : t.load = false)
    (hc : conditionPassed i.cond s.cpsr = true) (hp : ∀ x ∈ s.accesses i u, s.launch.plainAccess x = true) :
    (∀ r : RegIx, t.list.getLsbD r.toNat = true → u.mem.wordAt (t.addrOf (s.readReg t.rn) r) = s.storeValue r) ∧
      ∀ a : Word, (∀ r : RegIx, t.list.getLsbD r.toNat = true → 4 ≤ (a - t.addrOf (s.readReg t.rn) r).toNat) →
        u.mem.byteAt a = s.mem.byteAt a := by
  obtain ⟨hprefetch, hblock⟩ := (plain_ownAccesses_block hd hc).mp (List.forall_mem_append.mp hp).1
  have hvisits := visits_order t (s.readReg t.rn)
  have hplain : ∀ r ∈ t.order, (prefetched s).launch.plain .word (t.addrOf (s.readReg t.rn) r) = true :=
    fun r hr => hblock r ((mem_order t r).mp hr)
  have hmem : (prefetched s).mem = s.mem := busReadMem_plain hprefetch
  rw [exec_mem_beforeRefill h hp, beforeRefill_block hd hc]
  refine ⟨fun r hr => ?_, fun a ha => ?_⟩
  · exact run_store_word hl _ _ (prefetched s) hvisits hplain (order_nodup t)
      (fun q hq r hr hne => addrOf_apart _ ((mem_order t q).mp hq) ((mem_order t r).mp hr) hne) r ((mem_order t r).mpr hr)
  · rw [run_store_other hl _ _ (prefetched s) hvisits hplain a fun r hr => ha r ((mem_order t r).mp hr), hmem]

end

/-! ### Loads and stores (R273 to R280) -/

/-- Settles O39: the effect of a block transfer with L = 1, whose accesses are all reads. -/
theorem loadMultipleResult : Obligations.LoadMultipleResult := by
  rintro i s p t base hd hl hc hx rfl hstuck hp
  obtain rfl : p = prefetched s := hp
  obtain ⟨u, h⟩ := exec_block hd hc hx hstuck
  refine ⟨u, h.next, fun r hr hlisted => (h.readReg r hr).trans (blockValue_loaded hl hlisted _),
    fun hplain r hr => blockWord_prefetched hd hc hl hplain hr,
    fun hw hb => h.readReg_base ((writesBack_of_not_listed hb).trans hw), ?_,
    h.keepsRegsBut (fun _ r hr => ?_) (fun hw => ?_), h.cpsr, h.spsr, exec_keepsMemory h.next ?_, ?_, exec_run h.next⟩
  · split
    next h15 => exact h.pipeline_loaded hl h15
    next h15 =>
      split
      next hw =>
        have hb : t.list.getLsbD t.rn.toNat = false := by
          rw [hw.2]
          exact Bool.eq_false_iff.mpr h15
        exact h.pipeline_base ((writesBack_of_not_listed hb).trans hw.1) hw.2
      next hw =>
        have hpipe := h.pipeline
        rwa [if_neg] at hpipe
        rintro (⟨-, hlisted⟩ | ⟨hwrites, hn⟩)
        · exact h15 hlisted
        · exact hw ⟨w_of_writesBack hwrites, hn⟩
  · exact List.mem_append_left _ (List.mem_map_of_mem ((mem_regs t r).mpr hr))
  · simp [w_of_writesBack hw]
  · rw [hd]
    exact reads_accessOf hl t.order
  · rw [h.icycles, hd, Descriptor.internalCycles, if_pos hl]

/-- Settles O40: the effect of a block transfer with L = 0, whose writes lie between reads. -/
theorem storeMultipleResult : Obligations.StoreMultipleResult := by
  rintro i s t base hd hl hc hx rfl hstuck
  obtain ⟨u, h⟩ := exec_block hd hc hx hstuck
  have hwrites := writesBack_store hl
  refine ⟨u, h.next, busIs_of_sameBus (exec_bus h.next), ?_, exec_block_store_mem h.next hd hl hc,
    fun hw => h.readReg_base (hwrites.trans hw), ?_, h.keepsRegsBut (by simp [hl]) (fun hw => ?_), h.cpsr, h.spsr, ?_,
    exec_run h.next⟩
  · rw [hd, State.dataAccesses]
    refine List.map_congr_left fun r _ => ?_
    rw [BlockTransfer.accessOf, hl]
    rfl
  · split
    next hw => exact h.pipeline_base (hwrites.trans hw.1) hw.2
    next hw => simpa only [hl, hwrites, Bool.false_eq_true, false_and, false_or, if_neg hw] using h.pipeline
  · simp [w_of_writesBack hw]
  · rw [h.icycles, hd, Descriptor.internalCycles, hl]
    rfl

/-! ### A store and the load that undoes it (R280) -/

/-- LDMIA from the final address of an STMDB has each register at the address the STMDB gave it. -/
theorem addrOf_ldmia_final_stmdb (f : BlockFields) (base : Word) (r : RegIx) :
    (blockOf f true false true).addrOf ((blockOf f false true false).final base) r =
      (blockOf f false true false).addrOf base r := rfl

/-- LDMIA from the final address of an STMDB ends where the STMDB started. -/
theorem final_ldmia_final_stmdb (f : BlockFields) (base : Word) :
    (blockOf f true false true).final ((blockOf f false true false).final base) = base :=
  BitVec.sub_add_cancel _ _

/-- A block transfer in the flat memory that has R15 neither in its list nor as its base completes, and goes on to the next
instruction with no access but its own. -/
theorem exec_block_advances {i : Instr} {t : BlockTransfer} {s : State} (hd : describe i = .block false t)
    (hc : conditionPassed i.cond s.cpsr = true) (hx : s.Executing) (hn : t.rn ≠ 15) (h15 : t.list.getLsbD 15 = false)
    (hplain : ∀ x ∈ s.ownAccesses i, s.launch.plainAccess x = true) :
    ∃ u, BlockEffect i t s u ∧ s.AdvancesTo u ∧ s.accesses i u = s.ownAccesses i := by
  obtain ⟨-, hblock⟩ := (plain_ownAccesses_block hd hc).mp hplain
  obtain ⟨u, h⟩ := exec_block hd hc hx fun r hr => not_stuck_of_plain (hblock r hr)
  have hflushes : (describe i).flushes = false := by
    rw [hd, Descriptor.flushes, h15, beq_eq_false_iff_ne.mpr hn, Bool.and_false, Bool.and_false, Bool.or_false]
  exact ⟨u, h, exec_advancesTo h.next (by simp [hflushes]), by simp [State.accesses, hflushes]⟩

/-- An instruction that advances leaves the next one to execute in the same status (R24). -/
theorem executing_of_advancesTo {s u : State} (h : s.AdvancesTo u) (hcpsr : u.cpsr = s.cpsr) (hx : s.Executing) :
    u.Executing := by
  obtain ⟨-, hia, -, -, hpcf⟩ := h
  refine ⟨?_, hcpsr ▸ hx.2⟩
  rw [hpcf, hia]
  bv_omega

/-- The word after one in the flat memory is there too, unless a window has it. -/
theorem plain_word_add4 {l : Launch} {a : Word} (h : l.plain .word a = true) (hdevice : l.device (a + 4) = false) :
    l.plain .word (a + 4) = true := by
  obtain ⟨haligned, -⟩ := (plain_iff _ _ _).mp h
  exact plain_word (low_bits_add4 (eq_of_beq haligned)) hdevice

section
variable {f : BlockFields} {s s1 s2 : State}

/-- An LDMIA that the words an STMDB stored come back to restores every register: the listed ones are loaded, the base
returns from its final address, and the rest are not written. -/
theorem readReg_stmdb_ldmia (h1 : BlockEffect (.stmdb f) (blockOf f false true false) s s1)
    (h2 : BlockEffect (.ldmia f) (blockOf f true false true) s1 s2) (hw : f.w = true) (hn : f.rn ≠ 15)
    (hbase : f.list.getLsbD f.rn.toNat = false)
    (hwords : ∀ r : RegIx, f.list.getLsbD r.toNat = true →
      (prefetched s1).blockWord (blockOf f true false true) r = s.readReg r)
    (j : RegIx) (hj : j ≠ 15) : s2.readReg j = s.readReg j := by
  have hpush : (blockOf f false true false).writesBack = true := (writesBack_store rfl).trans hw
  have hpop : (blockOf f true false true).writesBack = true := (writesBack_of_not_listed hbase).trans hw
  by_cases hjn : f.rn = j
  · subst hjn
    calc s2.readReg f.rn
        = (blockOf f true false true).final (s1.readReg f.rn) := h2.readReg_base hpop hn
      _ = (blockOf f true false true).final ((blockOf f false true false).final (s.readReg f.rn)) :=
          congrArg _ (h1.readReg_base hpush hn)
      _ = s.readReg f.rn := final_ldmia_final_stmdb f _
  · rw [h2.readReg j hj]
    by_cases hlisted : f.list.getLsbD j.toNat = true
    · exact (blockValue_loaded rfl hlisted _).trans (hwords j hlisted)
    · rw [blockValue_other (fun h => hjn h.2) (fun h => hlisted h.2), afterRead_readReg, h1.readReg j hj,
        blockValue_other (fun h => hjn h.2) (fun h => hlisted h.2), afterRead_readReg]

/-- An LDMIA of an STMDB's list from its final address reads each register where the STMDB wrote it. -/
theorem addrOf_after_stmdb (h1 : BlockEffect (.stmdb f) (blockOf f false true false) s s1) (hw : f.w = true)
    (hn : f.rn ≠ 15) (r : RegIx) :
    (blockOf f true false true).addrOf (s1.readReg f.rn) r =
      (blockOf f false true false).addrOf (s.readReg f.rn) r := by
  have hbase : s1.readReg f.rn = (blockOf f false true false).final (s.readReg f.rn) :=
    h1.readReg_base ((writesBack_store rfl).trans hw) hn
  rw [hbase, addrOf_ldmia_final_stmdb]

/-- The prefetch and the block of that LDMIA are in the flat memory when those of the STMDB are, and the word after its
prefetch. -/
theorem plain_ownAccesses_after_stmdb (h1 : BlockEffect (.stmdb f) (blockOf f false true false) s s1)
    (hadv : s.AdvancesTo s1) (hw : f.w = true) (hn : f.rn ≠ 15) (hc : conditionPassed f.cond s.cpsr = true)
    (hplain : ∀ x ∈ s.ownAccesses (.stmdb f), s.launch.plainAccess x = true)
    (hdevice : s.launch.device (s.ia + 12) = false) :
    ∀ x ∈ s1.ownAccesses (.ldmia f), s1.launch.plainAccess x = true := by
  obtain ⟨hprefetch, hblock⟩ := (plain_ownAccesses_block (i := .stmdb f) rfl hc).mp hplain
  obtain ⟨hlaunch, -, -⟩ := exec_run h1.next
  have ⟨_, hia, _⟩ := hadv
  refine (plain_ownAccesses_block (i := .ldmia f) rfl (h1.cpsr ▸ hc)).mpr ⟨?_, fun r hr => ?_⟩
  · have hahead : s1.ia + 8 = s.ia + 8 + 4 := by
      rw [hia]
      bv_omega
    rw [hlaunch, hahead]
    refine plain_word_add4 hprefetch ?_
    rwa [BitVec.add_assoc]
  · rw [hlaunch]
    exact (addrOf_after_stmdb h1 hw hn r).symm ▸ hblock r hr

end

/-- Settles O41: the load reads the words the store wrote, at the addresses it wrote them, and ends at its base. -/
theorem pushThenPopRestores : Obligations.PushThenPopRestores := by
  intro f s hw hn hbase h15 hc hx hplain hdevice
  obtain ⟨s1, h1, hadv1, haccesses1⟩ := exec_block_advances (i := .stmdb f) rfl hc hx hn h15 hplain
  obtain ⟨hstored, -⟩ := exec_block_store_mem h1.next rfl rfl hc (haccesses1 ▸ hplain)
  have hc1 : conditionPassed f.cond s1.cpsr = true := h1.cpsr ▸ hc
  have hplain1 := plain_ownAccesses_after_stmdb h1 hadv1 hw hn hc hplain hdevice
  obtain ⟨s2, h2, hadv2, haccesses2⟩ := exec_block_advances (i := .ldmia f) rfl hc1
    (executing_of_advancesTo hadv1 h1.cpsr hx) hn h15 hplain1
  obtain ⟨-, hmem⟩ := exec_keepsMemory h2.next (reads_accessOf (t := blockOf f true false true) rfl _)
  have hwords (r : RegIx) (hr : f.list.getLsbD r.toNat = true) :
      (prefetched s1).blockWord (blockOf f true false true) r = s.readReg r := by
    have hr15 : r ≠ 15 := by
      rintro rfl
      exact absurd (hr.symm.trans h15) (by decide)
    calc (prefetched s1).blockWord (blockOf f true false true) r
        = s1.mem.wordAt ((blockOf f true false true).addrOf (s1.readReg f.rn) r) :=
          blockWord_prefetched (i := .ldmia f) rfl hc1 rfl hplain1 hr
      _ = s.storeValue r := (addrOf_after_stmdb h1 hw hn r).symm ▸ hstored r hr
      _ = s.readReg r := if_neg hr15
  have hread := readReg_stmdb_ldmia h1 h2 hw hn hbase hwords
  have hkeeps : s.KeepsRegsBut s2 [] :=
    keepsRegsBut_of_readReg (h2.cpsr.trans h1.cpsr)
      (fun p hp => (h2.outOfReach p (h1.cpsr ▸ hp)).trans (h1.outOfReach p hp)) fun j hj _ => hread j hj
  refine ⟨s1, s2, h1.next, h2.next, regs_ext fun p => hkeeps p List.not_mem_nil, hmem (haccesses2 ▸ hplain1),
    h2.cpsr.trans h1.cpsr, ?_⟩
  have ⟨_, hia1, _⟩ := hadv1
  have ⟨_, hia2, _⟩ := hadv2
  rw [hia2, hia1, BitVec.add_assoc]
  rfl

end Sys2Proof.Proofs
end

section
/-! SUPPORT. The family of the classes without a handler (46_unimplemented.md): which instructions they hold, and that the
error of R290 is theirs alone. -/

namespace Sys2Proof.Proofs

open Sys2Proof Sys2Proof.Machine Sys2Proof.Laws

/-- R291 to R296: the instructions without a handler are those of the seven classes. -/
theorem describe_eq_unimplemented_iff (i : Instr) : describe i = .unimplemented ↔ i.cls ∈ unimplementedClasses := by
  cases i <;> simp [describe, Instr.cls, unimplementedClasses]

/-- R318: the errors of the handlers are of other kinds. -/
theorem errorOf_eq_unimplementedClass_iff (s : State) (d : Descriptor) :
    s.errorOf d = some .unimplementedClass ↔ d = .unimplemented := by
  refine ⟨fun h => ?_, fun h => h ▸ rfl⟩
  cases d with
  | unimplemented => rfl
  | branchExchange | branch | swi => cases h
  | single t =>
    rw [State.errorOf] at h
    split_ifs at h <;> cases h
  | block sBit t =>
    rw [State.errorOf] at h
    split_ifs at h
    cases h
  | msr toSpsr rm =>
    cases toSpsr with
    | true =>
      rw [State.errorOf] at h
      split_ifs at h
      cases h
    | false =>
      rw [State.errorOf] at h
      split_ifs at h
      cases h
  | dataProcessing op setsFlags rn rd o =>
    rw [State.errorOf] at h
    split_ifs at h
    · split at h
      · cases h
      · split_ifs at h
        cases h

/-- R318: the errors of an instruction are those of the table, and only under a passing condition (R102). -/
theorem exec_raises_iff (i : Instr) (s : State) (k : ErrorKind) :
    (∃ e faulted, exec i s = .fault (.raised e faulted) ∧ e.kind = k) ↔
      conditionPassed i.cond s.cpsr = true ∧ s.errorOf (describe i) = some k := by
  refine ⟨fun ⟨e, faulted, hfault, hkind⟩ => ?_, fun ⟨hc, hk⟩ => ?_⟩
  · obtain ⟨hc, ⟨k', hk', hrecord⟩ | ⟨-, hstuck⟩⟩ := exec_fault hfault
    · cases hrecord
      obtain rfl : k' = k := hkind
      rw [handler_error, errorOf_prefetched] at hk'
      exact ⟨hc, hk'⟩
    · cases hstuck
  · obtain ⟨e, rfl, hfault⟩ := exec_errorOf hc hk
    exact ⟨_, _, hfault, rfl⟩

/-- Settles O16: R318's table has this error for the descriptor of the classes without a handler alone. -/
theorem unimplementedClassExactly : Obligations.UnimplementedClassExactly := by
  intro i s
  rw [exec_raises_iff, errorOf_eq_unimplementedClass_iff, describe_eq_unimplemented_iff]

/-- Settles O17: R290 is the table's line of these classes, and under a failing condition they advance like all others
(R102). -/
theorem unimplementedClassesRaise : Obligations.UnimplementedClassesRaise := by
  intro i s hi
  have hd : describe i = .unimplemented := (describe_eq_unimplemented_iff i).mpr hi
  refine ⟨fun hc => ?_, fun hc => ?_⟩
  · obtain ⟨e, rfl, hfault⟩ := exec_errorOf hc ((errorOf_eq_unimplementedClass_iff s _).mpr hd)
    exact hfault
  · obtain ⟨t, hnext, hadvance, hregs, hmem⟩ := exec_failed_keeps hc
    obtain rfl := Host.Outcome.next.inj ((failedConditionOnlyAdvances i s hc).symm.trans hnext)
    exact ⟨_, hnext, hadvance, hregs, rfl, rfl, hmem, rfl, exec_run hnext⟩

end Sys2Proof.Proofs
end

section
/-! SUPPORT. The family of exceptions and errors (60_exceptions.md): where R318's table gives no error only the bus can
keep an instruction from completing, and what an exception entry changes. -/

namespace Sys2Proof.Proofs

open Sys2Proof Sys2Proof.Machine Sys2Proof.Laws

/-! ### Errors (R318 to R320) -/

/-- An instruction for which the table gives no error, and of which no access is stuck (R67), completes, whatever its
condition: no instruction is refused. -/
theorem exec_completes {i : Instr} {s : State} (hnone : s.errorOf (describe i) = none)
    (haccess : ∀ x ∈ s.dataAccesses (describe i), s.launch.stuckAccess x = false) : ∃ t, exec i s = .next t := by
  cases hexec : exec i s with
  | next t => exact ⟨t, rfl⟩
  | refused r => exact absurd hexec (exec_not_refused i s r)
  | fault f =>
    obtain ⟨-, ⟨k, herror, -⟩ | ⟨-, rfl⟩⟩ := exec_fault hexec
    · rw [handler_error, errorOf_prefetched, hnone] at herror
      cases herror
    · have ⟨hstuck_iff, _⟩ := referenceBus
      obtain ⟨-, -, x, hx, hstuck⟩ := (hstuck_iff i s).mp hexec
      exact absurd (hstuck.symm.trans (haccess x hx)) (by decide)

/-- Settles O15: R319 says what an error leaves and R110 that a step from there does not begin; without an error the
instruction completes. -/
theorem errorsAreExactlyThese : Obligations.ErrorsAreExactlyThese := by
  intro i s hc
  refine ⟨fun k hk => ?_, exec_completes⟩
  obtain ⟨e, he, hfault⟩ := exec_errorOf hc hk
  have ⟨hset, _⟩ := stepThatDoesNotBegin { s.afterRead .word (s.ia + 8) with err := some e }
  exact ⟨e, _, hfault, he, rfl, hset e rfl⟩

/-! ### Exception entry (R301, R303) -/

/-- Every class enters a mode with an SPSR (R29, R301). -/
theorem exceptionClass_mode_hasSpsr (k : ExceptionClass) : k.mode ≠ .usr ∧ k.mode ≠ .sys := by cases k <;> decide

/-- Settles O25: the link and the registers kept are those of the entry's flush, which changes no register; the slot
written is the target mode's alone. -/
theorem exceptionEntry : Obligations.ExceptionEntry := by
  rintro s _ k lr rfl
  obtain ⟨hlr, hregs, -, -⟩ := enter_flush_effect s k lr
  simp only [State.KeepsRegsBut, applyFlush_regs] at hlr hregs
  have hsaved := spsrs_get_set_same s.spsr s.cpsr.toWord (exceptionClass_mode_hasSpsr k)
  have hlink : (s.enterException k lr).readReg 14 = lr := (readReg_of_bank (bank_14 _)).trans hlr
  refine ⟨?_, rfl, hsaved, hlink, rfl, rfl, rfl, rfl, rfl, rfl, rfl, rfl, rfl, hregs,
    fun m hm => spsrs_get_set_other _ _ hm.symm, ⟨rfl, rfl, rfl⟩, rfl, rfl⟩
  cases k <;> rfl

end Sys2Proof.Proofs
end

section
/-! SUPPORT. The reset and hazards family (70_reset_and_hazards.md): the state the reset procedure leaves, which states
have no step because they are outside the spec, and the internal cycles of an instruction. -/

namespace Sys2Proof.Proofs

open Sys2Proof Sys2Proof.Machine Sys2Proof.Laws

/-! ### The state after reset (R340, R342, R343) -/

/-- Settles O53: the procedure is one refill at 0 of the drawn state, and a refill changes the bus, the prefetched words
and `PCF` only. -/
theorem resetState : Obligations.ResetState := by
  rintro d launch _ _ rfl rfl
  have hplain := reset_plain d (l := launch)
  rw [resetProcedure_eq] at hplain ⊢
  exact ⟨rfl, rfl, rfl, rfl, rfl, rfl, rfl, rfl, rfl, rfl, rfl, rfl, rfl, rfl, rfl, rfl, rfl, rfl, rfl, rfl, rfl, rfl, rfl,
    ⟨rfl, rfl, rfl⟩, hplain⟩

/-- The clauses of `CleanLaunch` that ask nothing of the bus hold after reset, whatever the bus. -/
theorem resetProcedure_starts (d : ResetDraw) (l : Launch) :
    (resetProcedure d l).err = none ∧ (resetProcedure d l).refused = false ∧ (resetProcedure d l).cpsr.t = false ∧
      (resetProcedure d l).ia.extractLsb 1 0 = 0 ∧ (resetProcedure d l).pcf = (resetProcedure d l).ia + 8 := by
  rw [resetProcedure_eq]
  exact ⟨rfl, rfl, rfl, rfl, rfl⟩

/-- In the flat memory a second read at 0 and at 4 returns what the refill's returned. -/
theorem resetProcedure_prefetch (d : ResetDraw) {l : Launch} (h0 : l.device 0 = false) (h4 : l.device 4 = false) :
    (resetProcedure d l).qcur = (resetProcedure d l).busReadValue .word (resetProcedure d l).ia ∧
      (resetProcedure d l).qnext = (resetProcedure d l).busReadValue .word ((resetProcedure d l).ia + 4) := by
  obtain ⟨hqcur, hqnext, hmem, -⟩ := reset_plain d h0 h4
  have hia : (resetProcedure d l).ia = 0 := by rw [resetProcedure_eq, refill_ia]
  have hread (a : Word) (halign : a.extractLsb 1 0 = 0) (hdevice : l.device a = false) :
      (resetProcedure d l).busReadValue .word a = l.mem.wordAt a := by
    rw [← resetProcedure_launch d l] at hdevice
    rw [busReadValue_word (plain_word halign hdevice), hmem]
  rw [hia]
  exact ⟨hqcur.trans (hread 0 rfl h0).symm, hqnext.trans (hread 4 rfl h4).symm⟩

/-- Settles O54: the two words need the flat memory, the other clauses do not. -/
theorem resetIsACleanLaunch : Obligations.ResetIsACleanLaunch := by
  rintro d launch _ rfl
  have hstarts := resetProcedure_starts d launch
  have ⟨herr, hrefused, ht, halign, hpcf⟩ := hstarts
  exact ⟨hstarts, fun h0 h4 => ⟨herr, hrefused, ht, halign, hpcf, resetProcedure_prefetch d h0 h4⟩⟩

/-- Settles O56: the refill keeps memory canonical, and `State.reset` is the procedure's state at the draw of zeros and a
launch without windows. -/
theorem resetIsCoherent : Obligations.ResetIsCoherent := by
  have hcoherent (d : ResetDraw) (l : Launch) (hwf : l.mem.wf) : (resetProcedure d l).Coherent := by
    obtain ⟨herr, hrefused, -, halign, hpcf⟩ := resetProcedure_starts d l
    exact ⟨resetProcedure_mem_wf d hwf, herr, .inr ⟨hrefused, halign, hpcf⟩⟩
  refine ⟨hcoherent, ?_⟩
  rw [reset_is_the_reset_procedure]
  exact ⟨hcoherent _ _ reset_mem_wf, (resetIsACleanLaunch _ _ _ rfl).2 rfl rfl⟩

/-! ### States outside the spec (R343, R344) -/

/-- The test of the prefetched words is the last clause of `CleanLaunch`. -/
theorem prefetchIsTheBus_iff {s : State} :
    s.prefetchIsTheBus = true ↔ s.qcur = s.busReadValue .word s.ia ∧ s.qnext = s.busReadValue .word (s.ia + 4) := by
  rw [State.prefetchIsTheBus, Bool.and_eq_true, beq_iff_eq, beq_iff_eq]

/-- No instruction answers the fault of a launch outside the spec. -/
theorem exec_ne_brokenLaunch (i : Instr) (s : State) : exec i s ≠ .fault .brokenLaunch := by
  intro h
  obtain ⟨-, ⟨k, -, hf⟩ | ⟨-, hf⟩⟩ := exec_fault h <;> cases hf

/-- R344's test comes after those of R110, and only it answers its fault. -/
theorem noStep_eq_brokenLaunch_iff {s : State} :
    s.noStep = some (.fault .brokenLaunch) ↔
      (s.err = none ∧ s.refused = false ∧ s.launch.stopAddress ≠ some s.ia ∧ s.cpsr.t = false) ∧
        s.brokenLaunch = true := by
  refine ⟨fun h => ?_, fun ⟨⟨herr, hrefused, hstop, ht⟩, hbroken⟩ => ?_⟩
  · unfold State.noStep at h
    split at h
    · cases h
    · split_ifs at h with hrefused hstop ht hbroken <;> cases h
      exact ⟨⟨‹_›, Bool.eq_false_of_not_eq_true hrefused, hstop, Bool.eq_false_of_not_eq_true ht⟩, hbroken⟩
  · simp [State.noStep, herr, hrefused, hstop, ht, hbroken]

/-- A step answers the fault exactly when it passes R110's tests and fails R344's. -/
theorem step_eq_brokenLaunch_iff {s : State} :
    step s = .fault .brokenLaunch ↔
      (s.err = none ∧ s.refused = false ∧ s.launch.stopAddress ≠ some s.ia ∧ s.cpsr.t = false) ∧
        s.brokenLaunch = true := by
  rw [← noStep_eq_brokenLaunch_iff]
  refine ⟨fun h => ?_, step_of_noStep⟩
  cases hn : s.noStep with
  | some o => rw [← step_of_noStep hn, h]
  | none =>
    rw [step_begins hn] at h
    split at h
    · cases h
    · cases h
      exact absurd ‹_› (exec_ne_brokenLaunch _ s)
    · cases h

/-- A state that is not outside the spec never answers the fault. -/
theorem step_ne_brokenLaunch {s : State} (h : s.brokenLaunch = false) : step s ≠ .fault .brokenLaunch :=
  fun hstep => absurd (h.symm.trans (step_eq_brokenLaunch_iff.mp hstep).2) (by decide)

/-- The states outside the spec, clause by clause (log entries 18 and 19). -/
theorem brokenLaunch_iff {s : State} :
    s.brokenLaunch = true ↔
      s.pcf ≠ s.ia + 8 ∨ s.ia.extractLsb 1 0 ≠ 0 ∨
        s.steps = 0 ∧ (s.qcur ≠ s.busReadValue .word s.ia ∨ s.qnext ≠ s.busReadValue .word (s.ia + 4)) ∧
          ¬∃ d, s = resetProcedure d s.launch := by
  rw [← Bool.not_eq_false, brokenLaunch_false, prefetchIsTheBus_iff, isReset_iff]
  tauto

/-- A launch on a bus flat at 0 and 4 that passes R344's test is clean: there the states `Reset` produces are. -/
theorem cleanLaunch_of_not_broken {s : State} (hsteps : s.steps = 0) (h0 : s.launch.device 0 = false)
    (h4 : s.launch.device 4 = false) (herr : s.err = none) (hrefused : s.refused = false) (ht : s.cpsr.t = false)
    (h : s.brokenLaunch = false) : s.CleanLaunch := by
  obtain ⟨hpcf, halign, hlaunch⟩ := brokenLaunch_false.mp h
  rcases hlaunch hsteps with hbus | hreset
  · exact ⟨herr, hrefused, ht, halign, hpcf, prefetchIsTheBus_iff.mp hbus⟩
  · obtain ⟨d, hd⟩ := isReset_iff.mp hreset
    exact (resetIsACleanLaunch d s.launch s hd).2 h0 h4

/-- Settles O59: a clean launch and a reset state pass R344's test, and on a bus flat at 0 and 4 only a clean launch
does. -/
theorem launchOutsideTheSpecHasNoStep : Obligations.LaunchOutsideTheSpecHasNoStep := by
  have hclean (s : State) (h : s.CleanLaunch) : step s ≠ .fault .brokenLaunch :=
    step_ne_brokenLaunch (brokenLaunch_of_clean h)
  refine ⟨fun s => ?_, fun s hsteps h0 h4 hstop herr hrefused ht => ?_, hclean,
    fun d l => step_ne_brokenLaunch (resetProcedure_not_broken d l)⟩
  · rw [step_eq_brokenLaunch_iff, brokenLaunch_iff]
  · refine ⟨fun hstep h => hclean s h hstep, fun hnot => ?_⟩
    refine step_eq_brokenLaunch_iff.mpr ⟨⟨herr, hrefused, hstop, ht⟩, ?_⟩
    exact eq_true_of_ne_false fun h => hnot (cleanLaunch_of_not_broken hsteps h0 h4 herr hrefused ht h)

/-! ### Internal cycles (R350) -/

/-- Settles O46: the handler alone charges cycles; the prefetch, the pipeline action and an error charge none. -/
theorem internalCyclesAreExactlyThese : Obligations.InternalCyclesAreExactlyThese := by
  intro i s
  refine ⟨fun t h => ?_, fun e faulted h => ?_⟩
  · rcases exec_next h with ⟨hc, rfl⟩ | ⟨hc, s1, h1, rfl⟩ | ⟨hc, s1, h1, rfl⟩
    · simp [hc]
    · rw [if_pos hc]
      exact handler_cycles _ (prefetched s) s1 (.inl h1)
    · rw [if_pos hc, applyFlush_icycles]
      exact handler_cycles _ (prefetched s) s1 (.inr h1)
  · obtain ⟨-, ⟨k, -, hf⟩ | ⟨-, hf⟩⟩ := exec_fault h <;> cases hf
    rfl

end Sys2Proof.Proofs
end
